-- ==== Sys2Proof/Word.lean ====
section
/-! DEFINITION. The widths of the engine's values (spec/00_scope.md R7, R9) and the type of a buffer. -/

namespace Sys2Proof

/-- `WORD_W` = 32: words of `M`, `W`, `v`, `H`, `IV`, `K` and `L` (R7). -/
abbrev Word := BitVec 32

/-- `BYTE_W` = `CHAR_W` = 8: elements of `B` and `X`, and the value of `STATUS` (R7, R33). -/
abbrev Byte := BitVec 8

/-- `CU_W` = 16: one code unit of the Input Text (R7, R71). -/
abbrev CodeUnit := BitVec 16

/-- `CP_W` = 21: a resolved code point (R7, R72). -/
abbrev CodePoint := BitVec 21

/-- A four-bit value rendered as one hexadecimal character (R82). -/
abbrev Nibble := BitVec 4

/-- One index space of R50 whose elements are `w` bits wide: pairs (element index, value) with rising
indices and no listed value equal to what an unlisted index reads as (`Mem.wf`).
`Mem 8` is a list of the host's cells. -/
abbrev Mem (w : Nat) := List (Nat × BitVec w)

end Sys2Proof
end

