-- ==== Sys2Proof/Config.lean ====
section
/-! DEFINITION. The fixed parameters of R7 and the free values: what the spec leaves unspecified and the
machine goes on with (spec/93_implementation_defined.md U1, U2, U13). -/

namespace Sys2Proof

/-- `MAX_BYTES` = 2^29 - 1: the longest admitted Byte Stream (R7, D4). -/
def Config.maxBytes : Nat := 536870911

/-- `MAX_UNITS` is OPEN in R7, default unbounded. `none` is the default; `some m` is a platform whose text
buffer holds `m` code units. A `START` with more units is given no meaning (D4, U9). -/
def Config.textFits (maxUnits : Option Nat) (n : Nat) : Bool :=
  match maxUnits with
  | none => true
  | some m => decide (n ≤ m)

/-- Everything R220 leaves unspecified after the command `RESET`, as one plain record. -/
structure Config.FreeData where
  T : List (Nat × CodeUnit)
  n : Nat
  i : Nat
  B : List (Nat × Byte)
  nb : Nat
  L : Word
  nblk : Nat
  N : Nat
  M : List (Nat × Word)
  j : Nat
  H : Vector Word 8
  v : Vector Word 8
  W : Vector Word 64
  blk : Nat
  t : Nat
  X : Vector Byte 64
  p : Nat
deriving DecidableEq, Repr, Inhabited

/-- The two results of `packBlocks` (R120): the words, and the bit length as an unsigned 64-bit number. -/
structure Config.Packed where
  words : List Word
  bitLength : BitVec 64
deriving DecidableEq, Repr, Inhabited

/-- The data a `RESET` leaves behind, the k-th time a free value is drawn: unspecified, so no body
(R37, R220; U1 "any value"). -/
opaque Config.freeData : Nat → Config.FreeData

/-- The 64 values `RDHEX` returns outside `DONE`, the k-th time a free value is drawn: unspecified, "not
necessarily the same at two reads" (R184, U2), so no body. -/
opaque Config.freeHex : Nat → Vector Byte 64

/-- What `packBlocks` yields for a Byte Stream longer than `MAX_BYTES`: R120 gives it only up to that length, and
nothing may be assumed beyond (R6, U3), so no body (log entry 22). -/
opaque Config.freePacked : List Byte → Config.Packed

end Sys2Proof
end

