-- ==== Sys2Proof/Syntax.lean ====
section
/-! DEFINITION. The rows of spec/opcode_table.json as one inductive, and the encoded form of a row: a packet of a
format (R85), a selector word and, for `START` and `DIGEST`, the text operand. -/

namespace Sys2Proof

/-- One constructor per row of the operation table (R84, R85). The encoder rows carry the code point that is part of
their selector. `START` and `DIGEST` carry their text operand. The rows of the formats UTF8, HEXCHAR and STATUS are
output encodings: they carry the fields of their pattern. -/
inductive Instr where
  | reset                                   -- RESET (R220)
  | start (text : List CodeUnit)            -- START text (R182)
  | rdstat                                  -- RDSTAT (R183)
  | rdhex                                   -- RDHEX (R184)
  | digest (text : List CodeUnit)           -- DIGEST text, pseudo-operation (R185)
  | uEnc1 (cp : CodePoint)                  -- U.ENC1 (R103)
  | uEnc2 (cp : CodePoint)                  -- U.ENC2 (R104)
  | uEnc3 (cp : CodePoint)                  -- U.ENC3 (R105)
  | uEnc4 (cp : CodePoint)                  -- U.ENC4 (R106)
  | uDrop (cp : BitVec 22)                  -- U.DROP, a code point widened by one bit (R107)
  | pSize                                   -- P.SIZE (R122)
  | pPack                                   -- P.PACK (R123)
  | pMark                                   -- P.MARK (R124)
  | pLen                                    -- P.LEN (R125)
  | pCheck                                  -- P.CHECK (R126)
  | cInit                                   -- C.INIT (R150)
  | cLoad                                   -- C.LOAD (R151)
  | cExpand                                 -- C.EXPAND (R152)
  | cRound                                  -- C.ROUND (R153)
  | cAdd                                    -- C.ADD (R154)
  | xNib                                    -- X.NIB (R172)
  | utf8Form1 (c : BitVec 7)                -- UTF8.FORM1 (R73)
  | utf8Form2 (c : BitVec 11)               -- UTF8.FORM2 (R74)
  | utf8Form3 (c : BitVec 16)               -- UTF8.FORM3 (R75)
  | utf8Form4 (c : BitVec 21)               -- UTF8.FORM4 (R76)
  | hexChar0                                -- HEXCHAR.0 to HEXCHAR.F (R82)
  | hexChar1
  | hexChar2
  | hexChar3
  | hexChar4
  | hexChar5
  | hexChar6
  | hexChar7
  | hexChar8
  | hexChar9
  | hexCharA
  | hexCharB
  | hexCharC
  | hexCharD
  | hexCharE
  | hexCharF
  | status (done busy : Bool) (fcode : BitVec 2) (phase : BitVec 4)   -- STATUS (R33)
deriving DecidableEq, Repr

/-- The "format" column of the operation table (R85). -/
inductive Format where
  | H           -- a 2-bit host command code
  | phase       -- a 4-bit phase code
  | phaseCp     -- 4 bits of phase and 21 of the code point
  | phaseCp22   -- 4 bits of phase and 22 of a widened code point
  | pseudo      -- no bits
  | utf8        -- 8, 16, 24 or 32 bits of a byte sequence, first byte leftmost
  | hexChar     -- 8 bits of a character code
  | status      -- 8 bits of the status register
deriving DecidableEq, Repr

/-- An encoded row: its format, how many bits the row has, those bits (bit 0 least significant) and the text
operand, which is "not part of the command code" and travels as 16-bit numbers, never as bytes (R182, D2). -/
structure Packet where
  format : Format
  nbits : Nat
  word : BitVec 32
  text : List CodeUnit := []
deriving DecidableEq, Repr

/-- Why the decoder refuses a packet. -/
inductive DecodeError where
  | wrongWidth          -- no row of this format has that many bits
  | bitsAboveWidth      -- a bit is set above the row's width
  | strayOperand        -- a text operand where the row has none
  | noOperation         -- phase codes 0x0, 0xD, 0xE: the engine performs no operation (R84)
  | reservedPhase       -- phase code 0xF (R31)
  | needsCodePoint      -- phase code 0x1 alone: in ENC the code point selects the operation (R84)
  | notEncoderSelector  -- a selector with a code point whose phase is not ENC
  | notUtf8Form         -- a byte sequence that matches none of the forms 1 to 4
  | notHexChar          -- a code outside 0x30..0x39 and 0x61..0x66 (R173)
  | reservedFaultCode   -- fault code 3 (R32)
  | unreadableStatus    -- a value of STATUS that cannot be read (R33)
deriving DecidableEq, Repr

/-- What the decoder answers: an instruction, or a rejection by name. -/
inductive Decoded where
  | instr (i : Instr)
  | rejected (why : DecodeError)
deriving DecidableEq, Repr

end Sys2Proof
end

