-- ==== Sys2Proof/Machine/State.lean ====
section
/-! DEFINITION. The state of one engine (R20), the host beside it as plain data (R12), and why a step can stop. -/

namespace Sys2Proof.Machine

/-- The sequencer's phases (R31). The reserved code 0xF has no value here: it is never entered (U6). -/
inductive Phase where
  | idle
  | enc
  | size
  | pack
  | mark
  | len
  | check
  | init
  | load
  | expand
  | round
  | add
  | hex
  | done
  | fault
deriving DecidableEq, Repr

/-- The fault code `fcode` (R32, R201). The reserved code 3 has no value here: it is never written (U7). -/
inductive FCode where
  | none
  | lengthOverflow
  | blockCount
deriving DecidableEq, Repr

/-- The index spaces of R50 and the register files, as the place of a checked access. -/
inductive Space where
  | T
  | B
  | M
  | W
  | K
  | X
deriving DecidableEq, Repr

/-- What a host command returned (R183, R184). -/
inductive Response where
  | status (value : Byte)
  | hex (chars : Vector Byte 64)
deriving DecidableEq, Repr

/-- What a reader of the engine's output makes of one output encoding (R85): the code point of a UTF-8 sequence and
its bytes, the value of a hexadecimal character and its code, or the fields of `STATUS`. -/
inductive Reading where
  | codePoint (cp : CodePoint) (bytes : List Byte)
  | digit (d : Nibble) (code : Byte)
  | status (done busy : Bool) (fcode : BitVec 2) (phase : BitVec 4)
deriving DecidableEq, Repr

/-- Who moves next (R12, R180): the engine by one step, the host with one packet, or the host in the polling loop
of `DIGEST` (R185). -/
inductive Turn where
  | engine
  | host (p : Packet)
  | poll
deriving DecidableEq, Repr

/-- The state: the nineteen pieces of R20 under the spec's names, then the model's own fields. -/
structure State where
  /-- Text buffer (R21). -/
  T : Mem 16
  /-- Its length (R21). -/
  n : Nat
  /-- Encoder position (R22). -/
  i : Nat
  /-- Byte Stream (R23). -/
  B : Mem 8
  /-- Its length (R23). -/
  nb : Nat
  /-- Bit length (R24). -/
  L : Word
  /-- Number of blocks (R20, R121). -/
  nblk : Nat
  /-- Word count (R24). -/
  N : Nat
  /-- Word Block Array (R24). -/
  M : Mem 32
  /-- Packer position (R24). -/
  j : Nat
  /-- Hash State (R25). -/
  H : Vector Word 8
  /-- Working variables a to h (R26). -/
  v : Vector Word 8
  /-- Schedule (R27). -/
  W : Vector Word 64
  /-- Block counter (R28). -/
  blk : Nat
  /-- Schedule and round index (R28). -/
  t : Nat
  /-- Hex String (R29). -/
  X : Vector Byte 64
  /-- Formatter position (R29). -/
  p : Nat
  /-- Sequencer (R30, R31). -/
  phase : Phase
  /-- Fault code (R32). -/
  fcode : FCode
  /-- The model's own: the turns still to come, the next one first (R12, R180). With none listed the engine moves. -/
  agenda : List Turn
  /-- The model's own: what the latest returning command handed the host (R183, R184). -/
  response : Option Response
  /-- The model's own: what a reader made of the latest output encoding (R85). -/
  reading : Option Reading
  /-- The model's own: how many free values have been drawn. -/
  draws : Nat
  /-- The model's own: the OPEN parameter `MAX_UNITS` of R7, which no step writes; `none` is unbounded. -/
  maxUnits : Option Nat
deriving DecidableEq, Repr

/-- Why the machine stops with a fault. The engine's own faults (R201) are not here: they are next states in phase
FAULT (R204). -/
inductive Fault where
  /-- Raised by an engine operation whose index lies outside its space, in a state that breaks the precondition of its
  phase (R68: no run from `START` reaches one). Safe: the machine stops where the spec gives no value. -/
  | outOfRange (space : Space)
deriving DecidableEq, Repr

/-- Why the machine refuses. -/
inductive Refusal where
  /-- Raised by `exec` for an instruction that has no meaning yet. Safe. -/
  | notModelled (mnemonic : String)
  /-- Raised by `step` for a packet that the decoder rejects. Safe. -/
  | undecodable (why : DecodeError)
  /-- Raised by `step` for a packet of an engine format handed over by the host, which issues four commands and
  reads output only (R39, R180). Safe. -/
  | notAHostCommand
  /-- Raised by `START` with more than `MAX_UNITS` code units, which is given no meaning (D4, U9). Safe. -/
  | tooManyUnits
deriving DecidableEq, Repr

/-- What a meaning answers. -/
abbrev Result := Host.Outcome State Fault Refusal

/-- Right after reset: phase IDLE, no fault (R37, R220). The data registers and buffers, which R37 leaves unspecified,
hold zero: DESIGN CHOICE, log entry 1. No turn is listed and the parameter has its default. -/
def State.reset : State where
  T := []
  n := 0
  i := 0
  B := []
  nb := 0
  L := 0#32
  nblk := 0
  N := 0
  M := []
  j := 0
  H := Vector.replicate 8 0#32
  v := Vector.replicate 8 0#32
  W := Vector.replicate 64 0#32
  blk := 0
  t := 0
  X := Vector.replicate 64 0#8
  p := 0
  phase := .idle
  fcode := .none
  agenda := []
  response := .none
  reading := .none
  draws := 0
  maxUnits := .none

end Sys2Proof.Machine
end

