-- ==== Sys2Proof/Machine/Flags.lean ====
section
/-! DEFINITION. The codes of the phases and faults, and the three status flags with the STATUS register they stand in
(R31 to R34). There are no arithmetic flags (R34). -/

namespace Sys2Proof.Machine

/-- The phase codes of R31. -/
def Phase.code : Phase → BitVec 4
  | .idle => 0x0#4
  | .enc => 0x1#4
  | .size => 0x2#4
  | .pack => 0x3#4
  | .mark => 0x4#4
  | .len => 0x5#4
  | .check => 0x6#4
  | .init => 0x7#4
  | .load => 0x8#4
  | .expand => 0x9#4
  | .round => 0xA#4
  | .add => 0xB#4
  | .hex => 0xC#4
  | .done => 0xD#4
  | .fault => 0xE#4

/-- The fault codes of R32 and R201. -/
def FCode.code : FCode → BitVec 2
  | .none => 0#2
  | .lengthOverflow => 1#2
  | .blockCount => 2#2

/-- `busy`: the phase code is 0x1 to 0xC (R34). -/
def State.busy (s : State) : Bool := decide (0x1#4 ≤ s.phase.code) && decide (s.phase.code ≤ 0xC#4)

/-- `done`: the phase is DONE (R34). -/
def State.done (s : State) : Bool := decide (s.phase = .done)

/-- `fault`: the phase is FAULT (R34). -/
def State.faulted (s : State) : Bool := decide (s.phase = .fault)

/-- `STATUS` = {done, busy, fcode, phase} (R33, R183). -/
def State.statusByte (s : State) : Byte :=
  BitVec.ofBool s.done ++ BitVec.ofBool s.busy ++ s.fcode.code ++ s.phase.code

/-- Phases IDLE and DONE, in which `START` is accepted (R182). -/
def State.ready (s : State) : Bool := decide (s.phase = .idle) || decide (s.phase = .done)

end Sys2Proof.Machine
end

