-- ==== Sys2Proof/Machine/Memory.lean ====
section
/-! DEFINITION. The index spaces as sparse lists in one canonical form (R50): reading, writing, and the form. -/

namespace Sys2Proof

/-- What an unlisted element reads as: zero, the value `P.SIZE` gives all of `M` (R122). In the other spaces every
valid index has been written before it is read (R38), so there the choice is never seen (log entry 2). -/
def Mem.unlisted (w : Nat) : BitVec w := 0#w

/-- The element at index `a` (R50). -/
def Mem.read {w : Nat} (m : Mem w) (a : Nat) : BitVec w :=
  match m with
  | [] => Mem.unlisted w
  | (b, x) :: rest => if a = b then x else Mem.read rest a

/-- Prepends an element unless it is what an unlisted index reads as. -/
def Mem.consCell {w : Nat} (a : Nat) (x : BitVec w) (rest : Mem w) : Mem w :=
  if x = Mem.unlisted w then rest else (a, x) :: rest

/-- Writes the element at index `a`, keeping the form. -/
def Mem.write {w : Nat} (m : Mem w) (a : Nat) (x : BitVec w) : Mem w :=
  match m with
  | [] => Mem.consCell a x []
  | (b, y) :: rest =>
    if a < b then Mem.consCell a x ((b, y) :: rest)
    else if a = b then Mem.consCell a x rest
    else (b, y) :: Mem.write rest a x

/-- Writes a list of elements at successive indices from `a`. -/
def Mem.writeList {w : Nat} (m : Mem w) (a : Nat) : List (BitVec w) → Mem w
  | [] => m
  | x :: xs => Mem.writeList (m.write a x) (a + 1) xs

/-- A buffer that holds the listed elements from index `a` on and nothing else. -/
def Mem.ofListFrom {w : Nat} (a : Nat) : List (BitVec w) → Mem w
  | [] => []
  | x :: xs => Mem.consCell a x (Mem.ofListFrom (a + 1) xs)

/-- The canonical form of any list of cells, the first of an index counting. -/
def Mem.ofCells {w : Nat} : List (Nat × BitVec w) → Mem w
  | [] => []
  | (a, x) :: rest => (Mem.ofCells rest).write a x

/-- The elements at indices 0 to `len - 1`, in order. -/
def Mem.toList {w : Nat} (m : Mem w) (len : Nat) : List (BitVec w) :=
  (List.range len).map m.read

/-- The canonical form above a bound: indices at least `lo` and rising, no element equal to an unlisted one. -/
def Mem.wfFrom {w : Nat} (lo : Nat) : Mem w → Bool
  | [] => true
  | (a, x) :: rest => decide (lo ≤ a) && decide (x ≠ Mem.unlisted w) && Mem.wfFrom (a + 1) rest

/-- The canonical form: indices strictly rising, no element listed that equals an unlisted one. -/
def Mem.wf {w : Nat} (m : Mem w) : Bool := Mem.wfFrom 0 m

end Sys2Proof
end

