-- ==== Sys2Proof/Machine/Operands.lean ====
section
/-! DEFINITION. The operand forms: resolving code units, the byte sequences, byte lanes, nibbles and characters. -/

namespace Sys2Proof.Machine

/-- A high surrogate, 0xD800 to 0xDBFF (R71). -/
def isHigh (x : CodeUnit) : Bool := decide (0xD800#16 ≤ x) && decide (x ≤ 0xDBFF#16)

/-- A low surrogate, 0xDC00 to 0xDFFF (R71). -/
def isLow (x : CodeUnit) : Bool := decide (0xDC00#16 ≤ x) && decide (x ≤ 0xDFFF#16)

/-- The code point of a surrogate pair (R72). -/
def pairPoint (hi lo : CodeUnit) : CodePoint :=
  0x10000#21 + ((hi &&& 0x3FF#16).setWidth 21 <<< 10) + (lo &&& 0x3FF#16).setWidth 21

/-- Resolve (R102): the code point of the item at `i` and how many units it takes. -/
def resolve (T : Mem 16) (n i : Nat) : CodePoint × Nat :=
  let x := T.read i
  if isHigh x && decide (i + 1 < n) && isLow (T.read (i + 1)) then (pairPoint x (T.read (i + 1)), 2)
  else (x.setWidth 21, 1)

/-- The one-byte sequence (R73, R103). -/
def form1 (cp : CodePoint) : List Byte := [cp.setWidth 8]

/-- The two-byte sequence (R74, R104). -/
def form2 (cp : CodePoint) : List Byte :=
  [0xC0#8 ||| ((cp >>> 6) &&& 0x1F#21).setWidth 8, 0x80#8 ||| (cp &&& 0x3F#21).setWidth 8]

/-- The three-byte sequence (R75, R105). -/
def form3 (cp : CodePoint) : List Byte :=
  [0xE0#8 ||| ((cp >>> 12) &&& 0x0F#21).setWidth 8, 0x80#8 ||| ((cp >>> 6) &&& 0x3F#21).setWidth 8,
    0x80#8 ||| (cp &&& 0x3F#21).setWidth 8]

/-- The four-byte sequence (R76, R106). -/
def form4 (cp : CodePoint) : List Byte :=
  [0xF0#8 ||| ((cp >>> 18) &&& 0x07#21).setWidth 8, 0x80#8 ||| ((cp >>> 12) &&& 0x3F#21).setWidth 8,
    0x80#8 ||| ((cp >>> 6) &&& 0x3F#21).setWidth 8, 0x80#8 ||| (cp &&& 0x3F#21).setWidth 8]

/-- How far the byte at position `pos` stands from the low end of its word: big-endian lanes (R52). -/
def laneShift (pos : Nat) : Nat := 24 - 8 * (pos % 4)

/-- A byte moved to the lane of position `pos` (R52, R78). -/
def inLane (b : Byte) (pos : Nat) : Word := b.setWidth 32 <<< laneShift pos

/-- The number of blocks of a Byte Stream of `nb` bytes (R121). -/
def blocksFor (nb : Nat) : Nat := (nb + 8) / 64 + 1

/-- The nibble of character position `q` (R83, R171). -/
def nib (H : Vector Word 8) (q : Fin 64) : Nibble := ((H[q.1 / 8] >>> (28 - 4 * (q.1 % 8))) &&& 0xF#32).setWidth 4

/-- The character code of a nibble (R82). -/
def hexchar (d : Nibble) : Byte := if d ≤ 9#4 then 0x30#8 + d.setWidth 8 else 0x57#8 + d.setWidth 8

end Sys2Proof.Machine
end

