-- ==== Sys2Proof/Machine/Ops.lean ====
section
/-! DEFINITION. The shared operations: checked indices, fault entry and the reset that leaves it, the common tail of
the encoder operations, and what the host and a reader receive. -/

namespace Sys2Proof.Machine

/-- An access to index `k` of a space with `len` elements: R68 says every index is in range, and outside it there is
no element, so the machine stops by name. -/
def inRange (space : Space) (k len : Nat) (ok : Result) : Result :=
  if k < len then ok else .fault (.outOfRange space)

/-- Fault entry (R204): the code is recorded, the phase becomes FAULT, everything else keeps its value. -/
def State.enterFault (s : State) (c : FCode) : State := { s with fcode := c, phase := .fault }

/-- `raise F(info)` (R204). The info is not recorded (R201). -/
def raise (c : FCode) (s : State) : Result := .next (s.enterFault c)

/-- The effect of `RESET`, the only return from FAULT (R205, R220): phase IDLE and no fault code. All data becomes
unspecified, so it is drawn from a free value (R37, U1, U13). -/
def State.afterReset (s : State) : State :=
  let f := Config.freeData s.draws
  { s with
    T := Mem.ofCells f.T, n := f.n, i := f.i, B := Mem.ofCells f.B, nb := f.nb, L := f.L, nblk := f.nblk, N := f.N,
    M := Mem.ofCells f.M, j := f.j, H := f.H, v := f.v, W := f.W, blk := f.blk, t := f.t, X := f.X, p := f.p,
    phase := .idle, fcode := .none, draws := s.draws + 1 }

/-- The effect of an accepted `START` (R182). -/
def State.latch (s : State) (text : List CodeUnit) : State :=
  { s with
    T := Mem.ofListFrom 0 text, n := text.length, i := 0, B := [], nb := 0, fcode := .none,
    phase := if text.length = 0 then .size else .enc }

/-- A command returns a value to the host; the engine's state is untouched (R58). -/
def State.respond (s : State) (r : Response) : State := { s with response := some r }

/-- A reader of the engine's output takes in one encoding; the engine's state is untouched (R58, R85). -/
def State.note (s : State) (r : Reading) : State := { s with reading := some r }

/-- The turns still to come. -/
def State.withAgenda (s : State) (a : List Turn) : State := { s with agenda := a }

/-- Append and advance, the common tail of the encoder operations (R108), with the limit of R202 tested before
anything is written. -/
def appendAdvance (out : List Byte) (s : State) : Result :=
  inRange .T s.i s.n <|
    if s.nb + out.length > Config.maxBytes then raise .lengthOverflow s
    else
      let i' := s.i + (resolve s.T s.n s.i).2
      .next { s with
        B := s.B.writeList s.nb out, nb := s.nb + out.length, i := i',
        phase := if i' = s.n then .size else .enc }

/-- A reader takes the bytes of a UTF-8 sequence back to its code point (R73 to R76, R85). -/
def readSequence (cp : CodePoint) (bytes : List Byte) (s : State) : Result := .next (s.note (.codePoint cp bytes))

/-- A reader takes a character back to its value (R82, R85). -/
def readDigit (d : Nibble) (s : State) : Result := .next (s.note (.digit d (hexchar d)))

end Sys2Proof.Machine
end

