-- ==== Sys2Proof/Machine/Sha.lean ====
section
/-! DEFINITION. The constant tables and the functions of the compression engine (R141 to R149, R155). -/

namespace Sys2Proof.Machine

/-- The initialisation vector (R141). -/
def IV : Vector Word 8 :=
  #v[0x6A09E667#32, 0xBB67AE85#32, 0x3C6EF372#32, 0xA54FF53A#32, 0x510E527F#32, 0x9B05688C#32, 0x1F83D9AB#32,
    0x5BE0CD19#32]

/-- The round constants (R142), four to a line as the rule prints them. -/
def K : Vector Word 64 :=
  #v[0x428A2F98#32, 0x71374491#32, 0xB5C0FBCF#32, 0xE9B5DBA5#32,
    0x3956C25B#32, 0x59F111F1#32, 0x923F82A4#32, 0xAB1C5ED5#32,
    0xD807AA98#32, 0x12835B01#32, 0x243185BE#32, 0x550C7DC3#32,
    0x72BE5D74#32, 0x80DEB1FE#32, 0x9BDC06A7#32, 0xC19BF174#32,
    0xE49B69C1#32, 0xEFBE4786#32, 0x0FC19DC6#32, 0x240CA1CC#32,
    0x2DE92C6F#32, 0x4A7484AA#32, 0x5CB0A9DC#32, 0x76F988DA#32,
    0x983E5152#32, 0xA831C66D#32, 0xB00327C8#32, 0xBF597FC7#32,
    0xC6E00BF3#32, 0xD5A79147#32, 0x06CA6351#32, 0x14292967#32,
    0x27B70A85#32, 0x2E1B2138#32, 0x4D2C6DFC#32, 0x53380D13#32,
    0x650A7354#32, 0x766A0ABB#32, 0x81C2C92E#32, 0x92722C85#32,
    0xA2BFE8A1#32, 0xA81A664B#32, 0xC24B8B70#32, 0xC76C51A3#32,
    0xD192E819#32, 0xD6990624#32, 0xF40E3585#32, 0x106AA070#32,
    0x19A4C116#32, 0x1E376C08#32, 0x2748774C#32, 0x34B0BCB5#32,
    0x391C0CB3#32, 0x4ED8AA4A#32, 0x5B9CCA4F#32, 0x682E6FF3#32,
    0x748F82EE#32, 0x78A5636F#32, 0x84C87814#32, 0x8CC70208#32,
    0x90BEFFFA#32, 0xA4506CEB#32, 0xBEF9A3F7#32, 0xC67178F2#32]

/-- Rotation right by 1 to 31 (R9). -/
def rotr (x : Word) (k : Nat) : Word := (x >>> k) ||| (x <<< (32 - k))

/-- Logical shift right (R9, R155). -/
def shr (x : Word) (k : Nat) : Word := x >>> k

/-- Choose (R144). -/
def ch (x y z : Word) : Word := (x &&& y) ^^^ (~~~x &&& z)

/-- Majority (R144). -/
def maj (x y z : Word) : Word := (x &&& y) ^^^ (x &&& z) ^^^ (y &&& z)

/-- Σ0 (R145). -/
def bigSigma0 (x : Word) : Word := rotr x 2 ^^^ rotr x 13 ^^^ rotr x 22

/-- Σ1 (R146). -/
def bigSigma1 (x : Word) : Word := rotr x 6 ^^^ rotr x 11 ^^^ rotr x 25

/-- σ0 (R147). -/
def smallSigma0 (x : Word) : Word := rotr x 7 ^^^ rotr x 18 ^^^ shr x 3

/-- σ1 (R148). -/
def smallSigma1 (x : Word) : Word := rotr x 17 ^^^ rotr x 19 ^^^ shr x 10

/-- The recurrence of the message schedule at `t` (R143). -/
def scheduleWord (W : Vector Word 64) (t : Nat) (h : 16 ≤ t ∧ t < 64) : Word :=
  smallSigma1 W[t - 2] + W[t - 7] + smallSigma0 W[t - 15] + W[t - 16]

/-- The first temporary of a round (R149). -/
def temp1 (v : Vector Word 8) (k w : Word) : Word := v[7] + bigSigma1 v[4] + ch v[4] v[5] v[6] + k + w

/-- The second temporary of a round (R149). -/
def temp2 (v : Vector Word 8) : Word := bigSigma0 v[0] + maj v[0] v[1] v[2]

/-- One round on the eight working variables, all at once (R149, R153). -/
def roundVars (v : Vector Word 8) (k w : Word) : Vector Word 8 :=
  #v[temp1 v k w + temp2 v, v[0], v[1], v[2], v[3] + temp1 v k w, v[4], v[5], v[6]]

/-- Word-wise addition modulo 2^32 of two groups of eight words (R154). -/
def addWords (a b : Vector Word 8) : Vector Word 8 := Vector.ofFn fun k => a[k] + b[k]

end Sys2Proof.Machine
end

