-- ==== Sys2Proof/Machine/Compression.lean ====
section
/-! DEFINITION. The Compression Engine: C.INIT, C.LOAD, C.EXPAND, C.ROUND and C.ADD (R150 to R157). -/

namespace Sys2Proof.Machine

/-- `C.INIT` (R150). -/
def execCInit (s : State) : Result := .next { s with H := IV, blk := 0, phase := .load }

/-- `C.LOAD` (R151). -/
def execCLoad (s : State) : Result :=
  inRange .M (16 * s.blk + 15) s.N <|
    .next { s with
      W := Vector.ofFn fun k : Fin 64 => if k.1 < 16 then s.M.read (16 * s.blk + k.1) else s.W[k]
      v := s.H, t := 16, phase := .expand }

/-- `C.EXPAND` (R152). -/
def execCExpand (s : State) : Result :=
  if h : 16 ≤ s.t ∧ s.t < 64 then
    .next { s with
      W := s.W.set s.t (scheduleWord s.W s.t h) h.2
      t := if s.t = 63 then 0 else s.t + 1
      phase := if s.t = 63 then .round else .expand }
  else .fault (.outOfRange .W)

/-- `C.ROUND` (R153). After the last round `t` keeps 63. -/
def execCRound (s : State) : Result :=
  if h : s.t < 64 then
    .next { s with
      v := roundVars s.v K[s.t] s.W[s.t]
      t := if s.t = 63 then s.t else s.t + 1
      phase := if s.t = 63 then .add else .round }
  else .fault (.outOfRange .K)

/-- `C.ADD` (R154). -/
def execCAdd (s : State) : Result :=
  .next { s with
    H := addWords s.H s.v, blk := s.blk + 1, p := if s.blk + 1 = s.nblk then 0 else s.p,
    phase := if s.blk + 1 = s.nblk then .hex else .load }

end Sys2Proof.Machine
end

