-- ==== Sys2Proof/Machine/Formats.lean ====
section
/-! DEFINITION. The output encodings of the operation table: UTF8.FORM1 to UTF8.FORM4, HEXCHAR.0 to HEXCHAR.F and
STATUS. R85: they are there "so that a decoder of the engine's output can be written from the table alone; these rows
are not operations". So the engine does nothing; a reader of its output takes the encoding in (log entry 4). -/

namespace Sys2Proof.Machine

/-- `UTF8.FORM1` (R73). -/
def execUtf8Form1 (c : BitVec 7) (s : State) : Result :=
  readSequence (c.setWidth 21) (form1 (c.setWidth 21)) s

/-- `UTF8.FORM2` (R74). -/
def execUtf8Form2 (c : BitVec 11) (s : State) : Result :=
  readSequence (c.setWidth 21) (form2 (c.setWidth 21)) s

/-- `UTF8.FORM3` (R75). -/
def execUtf8Form3 (c : BitVec 16) (s : State) : Result :=
  readSequence (c.setWidth 21) (form3 (c.setWidth 21)) s

/-- `UTF8.FORM4` (R76). -/
def execUtf8Form4 (c : BitVec 21) (s : State) : Result :=
  readSequence (c.setWidth 21) (form4 (c.setWidth 21)) s

/-- `HEXCHAR.0` (R82). -/
def execHexChar0 (s : State) : Result := readDigit 0x0#4 s

/-- `HEXCHAR.1` (R82). -/
def execHexChar1 (s : State) : Result := readDigit 0x1#4 s

/-- `HEXCHAR.2` (R82). -/
def execHexChar2 (s : State) : Result := readDigit 0x2#4 s

/-- `HEXCHAR.3` (R82). -/
def execHexChar3 (s : State) : Result := readDigit 0x3#4 s

/-- `HEXCHAR.4` (R82). -/
def execHexChar4 (s : State) : Result := readDigit 0x4#4 s

/-- `HEXCHAR.5` (R82). -/
def execHexChar5 (s : State) : Result := readDigit 0x5#4 s

/-- `HEXCHAR.6` (R82). -/
def execHexChar6 (s : State) : Result := readDigit 0x6#4 s

/-- `HEXCHAR.7` (R82). -/
def execHexChar7 (s : State) : Result := readDigit 0x7#4 s

/-- `HEXCHAR.8` (R82). -/
def execHexChar8 (s : State) : Result := readDigit 0x8#4 s

/-- `HEXCHAR.9` (R82). -/
def execHexChar9 (s : State) : Result := readDigit 0x9#4 s

/-- `HEXCHAR.A` (R82). -/
def execHexCharA (s : State) : Result := readDigit 0xA#4 s

/-- `HEXCHAR.B` (R82). -/
def execHexCharB (s : State) : Result := readDigit 0xB#4 s

/-- `HEXCHAR.C` (R82). -/
def execHexCharC (s : State) : Result := readDigit 0xC#4 s

/-- `HEXCHAR.D` (R82). -/
def execHexCharD (s : State) : Result := readDigit 0xD#4 s

/-- `HEXCHAR.E` (R82). -/
def execHexCharE (s : State) : Result := readDigit 0xE#4 s

/-- `HEXCHAR.F` (R82). -/
def execHexCharF (s : State) : Result := readDigit 0xF#4 s

/-- `STATUS` (R33): the fields of the value that `RDSTAT` returns. -/
def execStatus (done busy : Bool) (fcode : BitVec 2) (phase : BitVec 4) (s : State) : Result :=
  .next (s.note (.status done busy fcode phase))

end Sys2Proof.Machine
end

