-- ==== Sys2Proof/Machine/Hex.lean ====
section
/-! DEFINITION. The Hex Encoder: X.NIB (R170 to R173). -/

namespace Sys2Proof.Machine

/-- `X.NIB` (R172). After the last character `p` keeps 63. -/
def execXNib (s : State) : Result :=
  if h : s.p < 64 then
    .next { s with
      X := s.X.set s.p (hexchar (nib s.H ⟨s.p, h⟩)) h
      p := if s.p = 63 then s.p else s.p + 1
      phase := if s.p = 63 then .done else .hex }
  else .fault (.outOfRange .X)

end Sys2Proof.Machine
end

