-- ==== Sys2Proof/WellFormed.lean ====
section
/-! DEFINITION. Which terms of `Instr` stand for something the spec encodes. -/

namespace Sys2Proof

/-- A value of `STATUS` that can be read: `busy` and `done` follow from the phase code, the fault code is non-zero
exactly in phase FAULT, and neither the reserved phase code 0xF nor the reserved fault code 3 occurs (R31, R32, R33). -/
def statusReadable (done busy : Bool) (fcode : BitVec 2) (phase : BitVec 4) : Bool :=
  decide (phase ≠ 0xF#4) && decide (fcode ≠ 3#2) &&
  (done == decide (phase = 0xD#4)) &&
  (busy == (decide (0x1#4 ≤ phase) && decide (phase ≤ 0xC#4))) &&
  (decide (fcode ≠ 0#2) == decide (phase = 0xE#4))

/-- The ranges of the operands: the thresholds of R77 for the encoder rows and for the byte sequences of R73 to R76
(the encoder always produces the shortest form), a widened code point above 0x1FFFFF for `U.DROP`, a readable
`STATUS`. -/
def Instr.wellFormed : Instr → Bool
  | .reset => true
  | .start _ => true
  | .rdstat => true
  | .rdhex => true
  | .digest _ => true
  | .uEnc1 cp => decide (cp ≤ 0x7F#21)
  | .uEnc2 cp => decide (0x80#21 ≤ cp) && decide (cp ≤ 0x7FF#21)
  | .uEnc3 cp => decide (0x800#21 ≤ cp) && decide (cp ≤ 0xFFFF#21)
  | .uEnc4 cp => decide (0x10000#21 ≤ cp)
  | .uDrop cp => decide (0x1FFFFF#22 < cp)
  | .pSize => true
  | .pPack => true
  | .pMark => true
  | .pLen => true
  | .pCheck => true
  | .cInit => true
  | .cLoad => true
  | .cExpand => true
  | .cRound => true
  | .cAdd => true
  | .xNib => true
  | .utf8Form1 _ => true
  | .utf8Form2 c => decide (0x80#11 ≤ c)
  | .utf8Form3 c => decide (0x800#16 ≤ c)
  | .utf8Form4 c => decide (0x10000#21 ≤ c)
  | .hexChar0 => true
  | .hexChar1 => true
  | .hexChar2 => true
  | .hexChar3 => true
  | .hexChar4 => true
  | .hexChar5 => true
  | .hexChar6 => true
  | .hexChar7 => true
  | .hexChar8 => true
  | .hexChar9 => true
  | .hexCharA => true
  | .hexCharB => true
  | .hexCharC => true
  | .hexCharD => true
  | .hexCharE => true
  | .hexCharF => true
  | .status done busy fcode phase => statusReadable done busy fcode phase

end Sys2Proof
end

