-- ==== Sys2Proof/Decode.lean ====
section
/-! DEFINITION. The decoder of R84 and R85 (total, rejecting by name), the encoder written from the same patterns,
and the host's entry for bare table words. -/

namespace Sys2Proof

/-- The number of bits of a row of each format (R85). A byte sequence has 8, 16, 24 or 32. -/
def Format.widths : Format → List Nat
  | .H => [2]
  | .phase => [4]
  | .phaseCp => [25]
  | .phaseCp22 => [26]
  | .pseudo => [0]
  | .utf8 => [8, 16, 24, 32]
  | .hexChar => [8]
  | .status => [8]

/-- The character codes of R82, one row each. -/
def decodeHexChar (w : BitVec 32) : Decoded :=
  if w = 0x30#32 then .instr .hexChar0
  else if w = 0x31#32 then .instr .hexChar1
  else if w = 0x32#32 then .instr .hexChar2
  else if w = 0x33#32 then .instr .hexChar3
  else if w = 0x34#32 then .instr .hexChar4
  else if w = 0x35#32 then .instr .hexChar5
  else if w = 0x36#32 then .instr .hexChar6
  else if w = 0x37#32 then .instr .hexChar7
  else if w = 0x38#32 then .instr .hexChar8
  else if w = 0x39#32 then .instr .hexChar9
  else if w = 0x61#32 then .instr .hexCharA
  else if w = 0x62#32 then .instr .hexCharB
  else if w = 0x63#32 then .instr .hexCharC
  else if w = 0x64#32 then .instr .hexCharD
  else if w = 0x65#32 then .instr .hexCharE
  else if w = 0x66#32 then .instr .hexCharF
  else .rejected .notHexChar

/-- The host's command code, two bits (R84, R180). Only `START` takes the text operand (R182 to R184). -/
def decodeCommand (w : BitVec 32) (text : List CodeUnit) : Decoded :=
  if w = 1#32 then .instr (.start text)
  else if text ≠ [] then .rejected .strayOperand
  else if w = 0#32 then .instr .reset
  else if w = 2#32 then .instr .rdstat
  else .instr .rdhex

/-- The phase code, four bits (R84): the operation of every phase but ENC, and no operation in IDLE, DONE, FAULT. -/
def decodePhase (w : BitVec 32) : Decoded :=
  if w = 0x2#32 then .instr .pSize
  else if w = 0x3#32 then .instr .pPack
  else if w = 0x4#32 then .instr .pMark
  else if w = 0x5#32 then .instr .pLen
  else if w = 0x6#32 then .instr .pCheck
  else if w = 0x7#32 then .instr .cInit
  else if w = 0x8#32 then .instr .cLoad
  else if w = 0x9#32 then .instr .cExpand
  else if w = 0xA#32 then .instr .cRound
  else if w = 0xB#32 then .instr .cAdd
  else if w = 0xC#32 then .instr .xNib
  else if w = 0x1#32 then .rejected .needsCodePoint
  else if w = 0xF#32 then .rejected .reservedPhase
  else .rejected .noOperation

/-- Four bits of phase and the resolved code point (R85): the rows in the order of their priority, the first that
matches wins, as masks and matches of the operation table. -/
def decodePhaseCp (w : BitVec 32) : Decoded :=
  if w &&& 0x1FFFF80#32 = 0x0200000#32 then .instr (.uEnc1 (w.extractLsb' 0 21))
  else if w &&& 0x1FFF800#32 = 0x0200000#32 then .instr (.uEnc2 (w.extractLsb' 0 21))
  else if w &&& 0x1FF0000#32 = 0x0200000#32 then .instr (.uEnc3 (w.extractLsb' 0 21))
  else if w &&& 0x1E00000#32 = 0x0200000#32 then .instr (.uEnc4 (w.extractLsb' 0 21))
  else .rejected .notEncoderSelector

/-- The row of `U.DROP`: phase ENC and a code point widened to 22 bits whose added bit is set (R85, R107). -/
def decodePhaseCp22 (w : BitVec 32) : Decoded :=
  if w &&& 0x3E00000#32 = 0x0600000#32 then .instr (.uDrop (w.extractLsb' 0 22))
  else .rejected .notEncoderSelector

/-- The byte sequences of R73 to R76, first byte leftmost, matched on their fixed bits. -/
def decodeUtf8 (nbits : Nat) (w : BitVec 32) : Decoded :=
  if nbits = 8 then
    if w &&& 0x80#32 = 0x00#32 then .instr (.utf8Form1 (w.extractLsb' 0 7))
    else .rejected .notUtf8Form
  else if nbits = 16 then
    if w &&& 0xE0C0#32 = 0xC080#32 then .instr (.utf8Form2 (w.extractLsb' 8 5 ++ w.extractLsb' 0 6))
    else .rejected .notUtf8Form
  else if nbits = 24 then
    if w &&& 0xF0C0C0#32 = 0xE08080#32 then
      .instr (.utf8Form3 (w.extractLsb' 16 4 ++ w.extractLsb' 8 6 ++ w.extractLsb' 0 6))
    else .rejected .notUtf8Form
  else
    if w &&& 0xF8C0C0C0#32 = 0xF0808080#32 then
      .instr (.utf8Form4 (w.extractLsb' 24 3 ++ w.extractLsb' 16 6 ++ w.extractLsb' 8 6 ++ w.extractLsb' 0 6))
    else .rejected .notUtf8Form

/-- The layout of `STATUS` (R33): done, busy, fault code, phase. Reserved codes are refused by name (R31, R32), and so
is a value that no `RDSTAT` returns. -/
def decodeStatus (w : BitVec 32) : Decoded :=
  let done := w.getLsbD 7
  let busy := w.getLsbD 6
  let fcode := w.extractLsb' 4 2
  let phase := w.extractLsb' 0 4
  if phase = 0xF#4 then .rejected .reservedPhase
  else if fcode = 3#2 then .rejected .reservedFaultCode
  else if statusReadable done busy fcode phase then .instr (.status done busy fcode phase)
  else .rejected .unreadableStatus

/-- The decoder: the row of the operation table that a packet encodes, or why there is none (R84, R85, R87). -/
def decode (p : Packet) : Decoded :=
  if p.nbits ∉ p.format.widths then .rejected .wrongWidth
  else if p.word >>> p.nbits ≠ 0#32 then .rejected .bitsAboveWidth
  else match p.format with
    | .H => decodeCommand p.word p.text
    | .pseudo => .instr (.digest p.text)
    | .phase => if p.text ≠ [] then .rejected .strayOperand else decodePhase p.word
    | .phaseCp => if p.text ≠ [] then .rejected .strayOperand else decodePhaseCp p.word
    | .phaseCp22 => if p.text ≠ [] then .rejected .strayOperand else decodePhaseCp22 p.word
    | .utf8 => if p.text ≠ [] then .rejected .strayOperand else decodeUtf8 p.nbits p.word
    | .hexChar => if p.text ≠ [] then .rejected .strayOperand else decodeHexChar p.word
    | .status => if p.text ≠ [] then .rejected .strayOperand else decodeStatus p.word

/-- The encoder: the packet of an instruction, from the patterns of the operation table. -/
def encode : Instr → Packet
  | .reset => { format := .H, nbits := 2, word := 0#32 }
  | .start text => { format := .H, nbits := 2, word := 1#32, text := text }
  | .rdstat => { format := .H, nbits := 2, word := 2#32 }
  | .rdhex => { format := .H, nbits := 2, word := 3#32 }
  | .digest text => { format := .pseudo, nbits := 0, word := 0#32, text := text }
  | .uEnc1 cp => { format := .phaseCp, nbits := 25, word := 0x0200000#32 ||| cp.setWidth 32 }
  | .uEnc2 cp => { format := .phaseCp, nbits := 25, word := 0x0200000#32 ||| cp.setWidth 32 }
  | .uEnc3 cp => { format := .phaseCp, nbits := 25, word := 0x0200000#32 ||| cp.setWidth 32 }
  | .uEnc4 cp => { format := .phaseCp, nbits := 25, word := 0x0200000#32 ||| cp.setWidth 32 }
  | .uDrop cp => { format := .phaseCp22, nbits := 26, word := 0x0400000#32 ||| cp.setWidth 32 }
  | .pSize => { format := .phase, nbits := 4, word := 0x2#32 }
  | .pPack => { format := .phase, nbits := 4, word := 0x3#32 }
  | .pMark => { format := .phase, nbits := 4, word := 0x4#32 }
  | .pLen => { format := .phase, nbits := 4, word := 0x5#32 }
  | .pCheck => { format := .phase, nbits := 4, word := 0x6#32 }
  | .cInit => { format := .phase, nbits := 4, word := 0x7#32 }
  | .cLoad => { format := .phase, nbits := 4, word := 0x8#32 }
  | .cExpand => { format := .phase, nbits := 4, word := 0x9#32 }
  | .cRound => { format := .phase, nbits := 4, word := 0xA#32 }
  | .cAdd => { format := .phase, nbits := 4, word := 0xB#32 }
  | .xNib => { format := .phase, nbits := 4, word := 0xC#32 }
  | .utf8Form1 c => { format := .utf8, nbits := 8, word := (0#1 ++ c).setWidth 32 }
  | .utf8Form2 c =>
    { format := .utf8, nbits := 16,
      word := (0b110#3 ++ c.extractLsb' 6 5 ++ 0b10#2 ++ c.extractLsb' 0 6).setWidth 32 }
  | .utf8Form3 c =>
    { format := .utf8, nbits := 24,
      word := (0b1110#4 ++ c.extractLsb' 12 4 ++ 0b10#2 ++ c.extractLsb' 6 6 ++ 0b10#2 ++
        c.extractLsb' 0 6).setWidth 32 }
  | .utf8Form4 c =>
    { format := .utf8, nbits := 32,
      word := (0b11110#5 ++ c.extractLsb' 18 3 ++ 0b10#2 ++ c.extractLsb' 12 6 ++ 0b10#2 ++ c.extractLsb' 6 6 ++
        0b10#2 ++ c.extractLsb' 0 6).setWidth 32 }
  | .hexChar0 => { format := .hexChar, nbits := 8, word := 0x30#32 }
  | .hexChar1 => { format := .hexChar, nbits := 8, word := 0x31#32 }
  | .hexChar2 => { format := .hexChar, nbits := 8, word := 0x32#32 }
  | .hexChar3 => { format := .hexChar, nbits := 8, word := 0x33#32 }
  | .hexChar4 => { format := .hexChar, nbits := 8, word := 0x34#32 }
  | .hexChar5 => { format := .hexChar, nbits := 8, word := 0x35#32 }
  | .hexChar6 => { format := .hexChar, nbits := 8, word := 0x36#32 }
  | .hexChar7 => { format := .hexChar, nbits := 8, word := 0x37#32 }
  | .hexChar8 => { format := .hexChar, nbits := 8, word := 0x38#32 }
  | .hexChar9 => { format := .hexChar, nbits := 8, word := 0x39#32 }
  | .hexCharA => { format := .hexChar, nbits := 8, word := 0x61#32 }
  | .hexCharB => { format := .hexChar, nbits := 8, word := 0x62#32 }
  | .hexCharC => { format := .hexChar, nbits := 8, word := 0x63#32 }
  | .hexCharD => { format := .hexChar, nbits := 8, word := 0x64#32 }
  | .hexCharE => { format := .hexChar, nbits := 8, word := 0x65#32 }
  | .hexCharF => { format := .hexChar, nbits := 8, word := 0x66#32 }
  | .status done busy fcode phase =>
    { format := .status, nbits := 8,
      word := (BitVec.ofBool done ++ BitVec.ofBool busy ++ fcode ++ phase).setWidth 32 }

/-- The packets a bare word of `nbits` bits can stand for: one per format whose row has exactly `nbits` bits, or
`nbits` bits once rounded up to whole bytes. The table gives a bare word no format, and the formats overlap (0b10 is
`RDSTAT` and, as a phase code, `P.SIZE`); the order here is the order in which they are tried. -/
def tableCandidates (nbits w : Nat) : List Packet :=
  ([.H, .phase, .hexChar, .utf8, .status, .phaseCp, .phaseCp22, .pseudo] : List Format).flatMap fun f =>
    (f.widths.filter fun n => nbits = n || nbits = (n + 7) / 8 * 8).map fun n =>
      { format := f, nbits := n, word := BitVec.ofNat 32 w }

/-- The first candidate that the decoder accepts. -/
def tablePacket (nbits w : Nat) : Option Packet :=
  if w < 2 ^ 32 then
    (tableCandidates nbits w).find? fun p =>
      match decode p with
      | .instr _ => true
      | .rejected _ => false
  else none

/-- The host's entry: the instruction the decoder reads from a bare word of the operation table. A text operand, which
the table gives no bits, is empty. -/
def decodeTableWord (nbits w : Nat) : Option Instr :=
  match tablePacket nbits w with
  | none => none
  | some p =>
    match decode p with
    | .instr i => some i
    | .rejected _ => none

end Sys2Proof
end

