-- ==== Sys2Proof/Machine/HostCommands.lean ====
section
/-! DEFINITION. The host commands RESET, START, RDSTAT, RDHEX and the pseudo-operation DIGEST (R180 to R185, R220). -/

namespace Sys2Proof.Machine

/-- `RESET` (R181, R220). -/
def execReset (s : State) : Result := .next s.afterReset

/-- `START text` (R182): accepted in IDLE and DONE, without effect in the other phases. More units than the text buffer
holds are given no meaning (D4, U9). -/
def execStart (text : List CodeUnit) (s : State) : Result :=
  if Config.textFits s.maxUnits text.length then
    if s.ready then .next (s.latch text) else .next s
  else .refused .tooManyUnits

/-- `RDSTAT` (R183). -/
def execRdstat (s : State) : Result := .next (s.respond (.status s.statusByte))

/-- `RDHEX` (R184): the Hex String in DONE, elsewhere 64 unspecified values, which are drawn free (U2). -/
def execRdhex (s : State) : Result :=
  if s.done then .next (s.respond (.hex s.X))
  else .next { s.respond (.hex (Config.freeHex s.draws)) with draws := s.draws + 1 }

/-- `DIGEST text` (R185, R90): the host's next turns become its expansion, `START text` and then the polling loop that
ends in `RDHEX`. -/
def execDigest (text : List CodeUnit) (s : State) : Result :=
  .next (s.withAgenda (.host (encode (.start text)) :: .poll :: s.agenda))

/-- One turn of the loop of `DIGEST` (R185): `RDSTAT`, then `RDHEX` if done, nothing more if faulted, and otherwise one
turn for the engine before the next poll. -/
def pollTurn (s : State) : Result :=
  let s' := s.respond (.status s.statusByte)
  if s.done then .next (s'.withAgenda (.host (encode .rdhex) :: s.agenda))
  else if s.faulted then .next s'
  else .next (s'.withAgenda (.engine :: .poll :: s.agenda))

end Sys2Proof.Machine
end

