-- ==== Sys2Proof/Machine/Padder.lean ====
section
/-! DEFINITION. The Block Padder/Packer: P.SIZE, P.PACK, P.MARK, P.LEN and P.CHECK (R120 to R128). -/

namespace Sys2Proof.Machine

/-- `P.SIZE` (R122). Clearing all `N` words leaves none listed. -/
def execPSize (s : State) : Result :=
  .next { s with
    L := BitVec.ofNat 32 (8 * s.nb), nblk := blocksFor s.nb, N := 16 * blocksFor s.nb, M := [], j := 0,
    phase := if s.nb = 0 then .mark else .pack }

/-- `P.PACK` (R123). -/
def execPPack (s : State) : Result :=
  inRange .B s.j s.nb <| inRange .M (s.j / 4) s.N <|
    .next { s with
      M := s.M.write (s.j / 4) (s.M.read (s.j / 4) ||| inLane (s.B.read s.j) s.j), j := s.j + 1,
      phase := if s.j + 1 = s.nb then .mark else .pack }

/-- `P.MARK` (R124). -/
def execPMark (s : State) : Result :=
  inRange .M (s.nb / 4) s.N <|
    .next { s with
      M := s.M.write (s.nb / 4) (s.M.read (s.nb / 4) ||| inLane 0x80#8 s.nb), phase := .len }

/-- `P.LEN` (R125): the last word; the one before it is not written. -/
def execPLen (s : State) : Result :=
  inRange .M (s.N - 1) s.N <| .next { s with M := s.M.write (s.N - 1) s.L, phase := .check }

/-- `P.CHECK` (R126). -/
def execPCheck (s : State) : Result :=
  if s.N % 16 ≠ 0 then raise .blockCount s else .next { s with phase := .init }

end Sys2Proof.Machine
end

