-- ==== Sys2Proof/Machine/Utf8.lean ====
section
/-! DEFINITION. The UTF-8 Encoder: U.ENC1 to U.ENC4 and U.DROP (R101 to R110). -/

namespace Sys2Proof.Machine

/-- `U.ENC1` (R103). -/
def execUEnc1 (cp : CodePoint) (s : State) : Result := appendAdvance (form1 cp) s

/-- `U.ENC2` (R104). -/
def execUEnc2 (cp : CodePoint) (s : State) : Result := appendAdvance (form2 cp) s

/-- `U.ENC3` (R105). -/
def execUEnc3 (cp : CodePoint) (s : State) : Result := appendAdvance (form3 cp) s

/-- `U.ENC4` (R106). -/
def execUEnc4 (cp : CodePoint) (s : State) : Result := appendAdvance (form4 cp) s

/-- `U.DROP` (R107): the item is consumed and no byte is appended, whatever its code point. "Faults: none", so the tail
of R108 runs without its limit, which no empty output can cross. -/
def execUDrop (_cp : BitVec 22) (s : State) : Result :=
  inRange .T s.i s.n <|
    let i' := s.i + (resolve s.T s.n s.i).2
    .next { s with i := i', phase := if i' = s.n then .size else .enc }

end Sys2Proof.Machine
end

