-- ==== Sys2Proof/Machine/Dispatch.lean ====
section
/-! DEFINITION. One arm per row of spec/opcode_table.json (R84, R85). -/

namespace Sys2Proof.Machine

def exec (i : Instr) (s : State) : Host.Outcome State Fault Refusal :=
  match i with
  | .reset => Sys2Proof.Machine.execReset s
  | .start text => Sys2Proof.Machine.execStart text s
  | .rdstat => Sys2Proof.Machine.execRdstat s
  | .rdhex => Sys2Proof.Machine.execRdhex s
  | .digest text => Sys2Proof.Machine.execDigest text s
  | .uEnc1 cp => Sys2Proof.Machine.execUEnc1 cp s
  | .uEnc2 cp => Sys2Proof.Machine.execUEnc2 cp s
  | .uEnc3 cp => Sys2Proof.Machine.execUEnc3 cp s
  | .uEnc4 cp => Sys2Proof.Machine.execUEnc4 cp s
  | .uDrop cp => Sys2Proof.Machine.execUDrop cp s
  | .pSize => Sys2Proof.Machine.execPSize s
  | .pPack => Sys2Proof.Machine.execPPack s
  | .pMark => Sys2Proof.Machine.execPMark s
  | .pLen => Sys2Proof.Machine.execPLen s
  | .pCheck => Sys2Proof.Machine.execPCheck s
  | .cInit => Sys2Proof.Machine.execCInit s
  | .cLoad => Sys2Proof.Machine.execCLoad s
  | .cExpand => Sys2Proof.Machine.execCExpand s
  | .cRound => Sys2Proof.Machine.execCRound s
  | .cAdd => Sys2Proof.Machine.execCAdd s
  | .xNib => Sys2Proof.Machine.execXNib s
  | .utf8Form1 c => Sys2Proof.Machine.execUtf8Form1 c s
  | .utf8Form2 c => Sys2Proof.Machine.execUtf8Form2 c s
  | .utf8Form3 c => Sys2Proof.Machine.execUtf8Form3 c s
  | .utf8Form4 c => Sys2Proof.Machine.execUtf8Form4 c s
  | .hexChar0 => Sys2Proof.Machine.execHexChar0 s
  | .hexChar1 => Sys2Proof.Machine.execHexChar1 s
  | .hexChar2 => Sys2Proof.Machine.execHexChar2 s
  | .hexChar3 => Sys2Proof.Machine.execHexChar3 s
  | .hexChar4 => Sys2Proof.Machine.execHexChar4 s
  | .hexChar5 => Sys2Proof.Machine.execHexChar5 s
  | .hexChar6 => Sys2Proof.Machine.execHexChar6 s
  | .hexChar7 => Sys2Proof.Machine.execHexChar7 s
  | .hexChar8 => Sys2Proof.Machine.execHexChar8 s
  | .hexChar9 => Sys2Proof.Machine.execHexChar9 s
  | .hexCharA => Sys2Proof.Machine.execHexCharA s
  | .hexCharB => Sys2Proof.Machine.execHexCharB s
  | .hexCharC => Sys2Proof.Machine.execHexCharC s
  | .hexCharD => Sys2Proof.Machine.execHexCharD s
  | .hexCharE => Sys2Proof.Machine.execHexCharE s
  | .hexCharF => Sys2Proof.Machine.execHexCharF s
  | .status done busy fcode phase => Sys2Proof.Machine.execStatus done busy fcode phase s

end Sys2Proof.Machine
end

