-- ==== Sys2Proof/Machine/Sequencer.lean ====
section
/-! DEFINITION. What plays the part of fetching: the engine's selector formed from its phase and code point (R30, R84,
R186), the host's packets, and the placing of one instruction where the next step takes it. -/

namespace Sys2Proof.Machine

/-- The selector of the engine's next operation (R85): the phase code, and in ENC the resolved code point after it. -/
def selector (s : State) : Packet :=
  match s.phase with
  | .enc =>
    { format := .phaseCp, nbits := 25, word := (s.phase.code ++ (resolve s.T s.n s.i).1).setWidth 32 }
  | _ => { format := .phase, nbits := 4, word := s.phase.code.setWidth 32 }

/-- Runs the instruction a packet encodes, or refuses it by name. -/
def runPacket (p : Packet) (s : State) : Result :=
  match decode p with
  | .instr i => exec i s
  | .rejected why => .refused (.undecodable why)

/-- The engine's turn (R186): in phases ENC to HEX the one enabled step; in IDLE, DONE and FAULT none is enabled and the
engine waits. In ENC the step first reads `T[i]` (R102). -/
def engineTurn (s : State) : Result :=
  if s.busy then
    match s.phase with
    | .enc => inRange .T s.i s.n (runPacket (selector s) s)
    | _ => runPacket (selector s) s
  else .next s

/-- The formats a host may hand over: its commands (R180), the pseudo-operation (R185), and the output encodings, which
are read (R85). The engine's own selectors are not among them (R39). -/
def hostFormat : Format → Bool
  | .H => true
  | .pseudo => true
  | .utf8 => true
  | .hexChar => true
  | .status => true
  | .phase => false
  | .phaseCp => false
  | .phaseCp22 => false

/-- The host's turn with one packet (R180). -/
def hostTurn (p : Packet) (s : State) : Result :=
  if hostFormat p.format then runPacket p s else .refused .notAHostCommand

/-- Puts the engine before phase `ph`, its turn next. Where the state breaks the precondition of the phase (R68), the
least counters that meet it are set as well. -/
def poise (ph : Phase) (s : State) : State :=
  let s := { s with phase := ph, agenda := .engine :: s.agenda }
  match ph with
  | .pack => if s.j < s.nb ∧ s.j / 4 < s.N then s else { s with j := 0, nb := 1, nblk := 1, N := 16 }
  | .mark => if s.nb / 4 < s.N then s else { s with nblk := blocksFor s.nb, N := 16 * blocksFor s.nb }
  | .len => if 0 < s.N then s else { s with nblk := 1, N := 16 }
  | .load => if 16 * s.blk + 15 < s.N then s else { s with nblk := s.blk + 1, N := 16 * (s.blk + 1) }
  | .expand => if 16 ≤ s.t ∧ s.t < 64 then s else { s with t := 16 }
  | .round => if s.t < 64 then s else { s with t := 0 }
  | .hex => if s.p < 64 then s else { s with p := 0 }
  | .idle => s
  | .enc => s
  | .size => s
  | .check => s
  | .init => s
  | .add => s
  | .done => s
  | .fault => s

/-- The code units that resolve to a code point (R72 and R102 read backwards). Above 0x10FFFF there are none. -/
def unitsOf (cp : CodePoint) : List CodeUnit :=
  if cp ≤ 0xFFFF#21 then [cp.setWidth 16]
  else if cp ≤ 0x10FFFF#21 then
    [0xD800#16 ||| ((cp - 0x10000#21) >>> 10).setWidth 16, 0xDC00#16 ||| (cp &&& 0x3FF#21).setWidth 16]
  else []

/-- Puts the engine in ENC before one item that resolves to `cp`, its turn next. -/
def poiseText (cp : CodePoint) (s : State) : State :=
  { s with
    T := Mem.ofListFrom 0 (unitsOf cp), n := (unitsOf cp).length, i := 0, phase := .enc, agenda := .engine :: s.agenda }

/-- Makes a packet the host's next turn. -/
def placeHost (p : Packet) (s : State) : State := { s with agenda := .host p :: s.agenda }

/-- Places one instruction where the next step takes it: an engine operation by poising the engine before it, anything
else as the host's next packet. `U.DROP` and code points above 0x10FFFF are never selected (R72, R107), so there is
nowhere to place them. -/
def placePacket (p : Packet) (s : State) : State :=
  match decode p with
  | .rejected _ => s
  | .instr i =>
    match i with
    | .pSize => poise .size s
    | .pPack => poise .pack s
    | .pMark => poise .mark s
    | .pLen => poise .len s
    | .pCheck => poise .check s
    | .cInit => poise .init s
    | .cLoad => poise .load s
    | .cExpand => poise .expand s
    | .cRound => poise .round s
    | .cAdd => poise .add s
    | .xNib => poise .hex s
    | .uEnc1 cp => poiseText cp s
    | .uEnc2 cp => poiseText cp s
    | .uEnc3 cp => poiseText cp s
    | .uEnc4 cp => if cp ≤ 0x10FFFF#21 then poiseText cp s else s
    | .uDrop _ => s
    | .reset => placeHost p s
    | .start _ => placeHost p s
    | .rdstat => placeHost p s
    | .rdhex => placeHost p s
    | .digest _ => placeHost p s
    | .utf8Form1 _ => placeHost p s
    | .utf8Form2 _ => placeHost p s
    | .utf8Form3 _ => placeHost p s
    | .utf8Form4 _ => placeHost p s
    | .hexChar0 => placeHost p s
    | .hexChar1 => placeHost p s
    | .hexChar2 => placeHost p s
    | .hexChar3 => placeHost p s
    | .hexChar4 => placeHost p s
    | .hexChar5 => placeHost p s
    | .hexChar6 => placeHost p s
    | .hexChar7 => placeHost p s
    | .hexChar8 => placeHost p s
    | .hexChar9 => placeHost p s
    | .hexCharA => placeHost p s
    | .hexCharB => placeHost p s
    | .hexCharC => placeHost p s
    | .hexCharD => placeHost p s
    | .hexCharE => placeHost p s
    | .hexCharF => placeHost p s
    | .status _ _ _ _ => placeHost p s

end Sys2Proof.Machine
end

