-- ==== Sys2Proof/Machine/Step.lean ====
section
/-! DEFINITION. One step: the next turn of the agenda, and with none listed the engine's (R12, R180, R186). -/

namespace Sys2Proof.Machine

def step (s : State) : Host.Outcome State Fault Refusal :=
  match s.agenda with
  | [] => engineTurn s
  | .engine :: rest => engineTurn (s.withAgenda rest)
  | .host p :: rest => hostTurn p (s.withAgenda rest)
  | .poll :: rest => pollTurn (s.withAgenda rest)

/-- The state whose next step runs the instruction that a bare table word encodes (log entry 6). -/
def State.withFetchWord (s : State) (nbits w : Nat) : State :=
  match tablePacket nbits w with
  | none => s
  | some p => placePacket p s

end Sys2Proof.Machine
end

