-- ==== Sys2Proof/Machine/Engines.lean ====
section
/-! DEFINITION. Several engines (R210): each has its own complete state and its own turns, and they share nothing but
the constant tables. -/

namespace Sys2Proof.Machine

/-- One more step of an engine that may have stopped. -/
def advance (o : Result) : Result :=
  match o with
  | .next s => step s
  | .fault f => .fault f
  | .refused r => .refused r

/-- `k` more steps of one engine alone. -/
def advanceBy : Nat → Result → Result
  | 0, o => o
  | k + 1, o => advanceBy k (advance o)

/-- The engines after the steps of a schedule, which lists which engine moves (R64). -/
def runSchedule : List Nat → List Result → List Result
  | [], engines => engines
  | k :: rest, engines => runSchedule rest (engines.modify k advance)

end Sys2Proof.Machine
end

