-- ==== Sys2Proof/Machine/Functional.lean ====
section
/-! DEFINITION. The functional level of R11: the contracts of the four components and their composition digestHex, as
pure functions that know nothing of the machine's steps (R90, R100, R120, R140, R170). -/

namespace Sys2Proof.Machine

/-- The bytes of a resolved code point: the form whose threshold holds first (R77, R100). -/
def emit (cp : CodePoint) : List Byte :=
  if cp ≤ 0x7F#21 then form1 cp
  else if cp ≤ 0x7FF#21 then form2 cp
  else if cp ≤ 0xFFFF#21 then form3 cp
  else form4 cp

/-- The items of a text: the code points that R102 resolves, in order. -/
def items : List CodeUnit → List CodePoint
  | [] => []
  | [x] => [x.setWidth 21]
  | x :: y :: rest =>
    if isHigh x && isLow y then pairPoint x y :: items rest
    else x.setWidth 21 :: items (y :: rest)

/-- `encodeUtf8` (R100). -/
def encodeUtf8 (text : List CodeUnit) : List Byte := (items text).flatMap emit

/-- The byte at position `pos` of the padded message (R79): data, marker, zeros, and the length in the last four
bytes. R79 is about an admitted stream, of at most `MAX_BYTES` bytes, and `packBlocks` uses it for no other; what the
formula yields past that (a length reduced modulo 2^32) is no value of the spec (log entry 22). -/
def paddedByte (bytes : List Byte) (pos : Nat) : Byte :=
  let nb := bytes.length
  let total := 64 * blocksFor nb
  if pos < nb then bytes.getD pos 0#8
  else if pos = nb then 0x80#8
  else if total - 4 ≤ pos then BitVec.ofNat 8 ((8 * nb) >>> (8 * (total - 1 - pos)))
  else 0#8

/-- Four bytes as a big-endian word (R78). -/
def packedWord (b0 b1 b2 b3 : Byte) : Word := b0 ++ b1 ++ b2 ++ b3

/-- The words of the padded message, four bytes to a word (R79, R120). As for `paddedByte`, only an admitted stream is
meant (log entry 22). -/
def paddedWords (bytes : List Byte) : List Word :=
  (List.range (16 * blocksFor bytes.length)).map fun k =>
    packedWord (paddedByte bytes (4 * k)) (paddedByte bytes (4 * k + 1)) (paddedByte bytes (4 * k + 2))
      (paddedByte bytes (4 * k + 3))

/-- `packBlocks` (R120): the words and the bit length `8*nb` as a 64-bit number, for a stream of at most `MAX_BYTES`
bytes. Longer streams are out of scope (R6) and nothing may be assumed of them (U3): there both results are free
values. DESIGN CHOICE of form, log entry 22. -/
def packBlocks (bytes : List Byte) : Config.Packed :=
  if bytes.length ≤ Config.maxBytes then
    { words := paddedWords bytes, bitLength := BitVec.ofNat 64 (8 * bytes.length) }
  else Config.freePacked bytes

/-- One step of the schedule's recurrence (R143). -/
def expandAt (W : Vector Word 64) (t : Nat) : Vector Word 64 :=
  if h : 16 ≤ t ∧ t < 64 then W.set t (scheduleWord W t h) h.2 else W

/-- The schedule after its first `16 + k` words. -/
def expandFirst (W : Vector Word 64) : Nat → Vector Word 64
  | 0 => W
  | k + 1 => expandAt (expandFirst W k) (16 + k)

/-- The message schedule of the block of `words` that starts at word `16 * b` (R143). -/
def schedule (words : List Word) (b : Nat) : Vector Word 64 :=
  expandFirst (Vector.ofFn fun k : Fin 64 => if k.1 < 16 then words.getD (16 * b + k.1) 0#32 else 0#32) 48

/-- Round `t` on the working variables (R149). -/
def roundAt (W : Vector Word 64) (v : Vector Word 8) (t : Nat) : Vector Word 8 :=
  if h : t < 64 then roundVars v K[t] W[t] else v

/-- The working variables after the first `t` rounds. -/
def roundsFirst (W : Vector Word 64) (v : Vector Word 8) : Nat → Vector Word 8
  | 0 => v
  | t + 1 => roundAt W (roundsFirst W v t) t

/-- The Hash State after the first `b` blocks (R140). -/
def compressFirst (words : List Word) : Nat → Vector Word 8
  | 0 => IV
  | b + 1 => addWords (compressFirst words b) (roundsFirst (schedule words b) (compressFirst words b) 64)

/-- `compress` (R140), for at least `16 * nblk` words. A word that the array lacks would be read as zero; R157 leaves
such an array out (DESIGN CHOICE, log entry 22). -/
def compress (words : List Word) (nblk : Nat) : Vector Word 8 := compressFirst words nblk

/-- `toHex` (R170). -/
def toHex (H : Vector Word 8) : Vector Byte 64 := Vector.ofFn fun q => hexchar (nib H q)

/-- `digestHex` (R4, R11, R90). For a text whose encoding exceeds `MAX_BYTES` it renders what `packBlocks` leaves free:
the digest of such a text is unknown (U3), and no claim here says anything about it (log entry 22). -/
def digestHex (text : List CodeUnit) : Vector Byte 64 :=
  let bytes := encodeUtf8 text
  toHex (compress (packBlocks bytes).words (blocksFor bytes.length))

/-- The number of engine steps of an invocation that does not fault (R230). -/
def stepCount (text : List CodeUnit) : Nat :=
  let nb := (encodeUtf8 text).length
  (items text).length + nb + 114 * blocksFor nb + 69

end Sys2Proof.Machine
end

