-- ==== Sys2Proof/Safety.lean ====
section
/-! DEFINITION. What counts as a safe run: the invariant of the machine (R32, R38, R40, R68), the edges of the
transition graph (R186), and a run of steps. -/

namespace Sys2Proof.Machine

/-- Every buffer is in its canonical form. -/
def State.memWf (s : State) : Bool := s.T.wf && s.B.wf && s.M.wf

/-- A fault code is recorded exactly in phase FAULT (R32). -/
def State.faultAgrees (s : State) : Prop := s.fcode ≠ .none ↔ s.phase = .fault

/-- The text has been encoded, within the limit of R202, and every code unit gave at least one byte (R40). -/
def State.encoded (s : State) : Prop := s.nb ≤ Config.maxBytes ∧ s.i = s.n ∧ s.n ≤ s.nb

/-- `P.SIZE` has computed the sizes (R40, R122). -/
def State.sized (s : State) : Prop :=
  s.encoded ∧ s.L = BitVec.ofNat 32 (8 * s.nb) ∧ s.nblk = blocksFor s.nb ∧ s.N = 16 * s.nblk

/-- All bytes are packed. -/
def State.packed (s : State) : Prop := s.sized ∧ s.j = s.nb

/-- What holds in each phase: the preconditions of R101, R123, R151 to R153 and R172, and the bounds of R40. -/
def State.phaseInv (s : State) : Prop :=
  match s.phase with
  | .idle => True
  | .enc => s.i < s.n ∧ s.nb ≤ Config.maxBytes ∧ s.i ≤ s.nb
  | .size => s.encoded
  | .pack => s.sized ∧ s.j < s.nb
  | .mark => s.packed
  | .len => s.packed
  | .check => s.packed
  | .init => s.packed
  | .load => s.packed ∧ s.blk < s.nblk
  | .expand => s.packed ∧ s.blk < s.nblk ∧ 16 ≤ s.t ∧ s.t < 64
  | .round => s.packed ∧ s.blk < s.nblk ∧ s.t < 64
  | .add => s.packed ∧ s.blk < s.nblk
  | .hex => s.packed ∧ s.blk = s.nblk ∧ s.p < 64
  | .done => s.packed ∧ s.blk = s.nblk ∧ s.p = 63
  | .fault => True

/-- The invariant. -/
def State.Inv (s : State) : Prop := s.memWf = true ∧ s.faultAgrees ∧ s.phaseInv

/-- The edges that an engine step may take from `s` to the phase `ph` (R186), with their conditions. -/
def edge (s : State) (ph : Phase) : Prop :=
  match s.phase with
  | .enc =>
    (ph = .enc ∧ s.i + (resolve s.T s.n s.i).2 < s.n) ∨ (ph = .size ∧ s.i + (resolve s.T s.n s.i).2 = s.n) ∨
      (ph = .fault ∧ Config.maxBytes < s.nb + (emit (resolve s.T s.n s.i).1).length)
  | .size => (ph = .mark ∧ s.nb = 0) ∨ (ph = .pack ∧ 0 < s.nb)
  | .pack => (ph = .pack ∧ s.j + 1 < s.nb) ∨ (ph = .mark ∧ s.j + 1 = s.nb)
  | .mark => ph = .len
  | .len => ph = .check
  | .check => (ph = .init ∧ s.N % 16 = 0) ∨ (ph = .fault ∧ s.N % 16 ≠ 0)
  | .init => ph = .load
  | .load => ph = .expand
  | .expand => (ph = .expand ∧ s.t < 63) ∨ (ph = .round ∧ s.t = 63)
  | .round => (ph = .round ∧ s.t < 63) ∨ (ph = .add ∧ s.t = 63)
  | .add => (ph = .load ∧ s.blk + 1 < s.nblk) ∨ (ph = .hex ∧ s.blk + 1 = s.nblk)
  | .hex => (ph = .hex ∧ s.p < 63) ∨ (ph = .done ∧ s.p = 63)
  | .idle => False
  | .done => False
  | .fault => False

/-- `k` steps lead from `s` to `s'`, and no state on the way is in phase FAULT. -/
def runsCleanly (k : Nat) (s s' : State) : Prop :=
  Host.Core.run Sys2Proof.core k s = .next s' ∧
    ∀ m, m ≤ k → ∃ u : State, Host.Core.run Sys2Proof.core m s = .next u ∧ u.phase ≠ .fault

end Sys2Proof.Machine
end

