-- ==== Sys2Proof/Certificates/Slice0/Obligations.lean ====
section
/-! DEFINITION. The statements about the model. Each docstring names the rule of spec/ it formalises. -/

open Sys2Proof Sys2Proof.Machine

namespace Sys2Proof.Claims

/-- The nineteen pieces of R20 are the same in both states: only the model's own fields may differ. -/
def sameEngine (s t : State) : Prop :=
  t = { s with agenda := t.agenda, response := t.response, reading := t.reading, draws := t.draws,
               maxUnits := t.maxUnits }

/-- R108 without its fault: the bytes stand at the end of the Byte Stream, every other byte of `B` reads as before, the
position has passed the item that R102 resolves, the phase follows, and nothing else has changed. -/
def appendsItem (out : List Byte) (s t : State) : Prop :=
  t.nb = s.nb + out.length ∧
  (∀ q, q < out.length → t.B.read (s.nb + q) = out.getD q 0#8) ∧
  (∀ a, a < s.nb ∨ s.nb + out.length ≤ a → t.B.read a = s.B.read a) ∧
  t.i = s.i + (resolve s.T s.n s.i).2 ∧
  t.phase = (if t.i = s.n then .size else .enc) ∧
  t = { s with B := t.B, nb := t.nb, i := t.i, phase := t.phase }

/-- An encoder row whose output is `out`: R108 within the limit, fault entry past it (R202, R204). -/
def encoderRow (i : Instr) (out : List Byte) (s : State) : Prop :=
  (s.nb + out.length ≤ Config.maxBytes → ∃ t, exec i s = .next t ∧ appendsItem out s t) ∧
  (Config.maxBytes < s.nb + out.length →
    exec i s = .next { s with fcode := .lengthOverflow, phase := .fault })

/-- Byte lane `q` of a word, lane 0 most significant (R52). -/
def laneByte (w : Word) (q : Nat) : Byte := w.extractLsb' (24 - 8 * q) 8

/-- A state in which the host is about to issue `START text` and the engine will accept it. -/
def aboutToStart (s : State) (text : List CodeUnit) : Prop :=
  s.ready = true ∧ s.agenda = [.host (encode (.start text))] ∧ Config.textFits s.maxUnits text.length = true

end Sys2Proof.Claims

open Sys2Proof.Claims

/-! ### Encoding -/

/-- R84, R85: no bit of an encoding is dropped, and the priority of the encoder rows never takes a well-formed
instruction for another. -/
def Obligations.DecodeEncodeAgree : Prop :=
  ∀ i : Instr, i.wellFormed = true → decode (encode i) = .instr i

/-- R84, R85: a packet has at most one meaning, and encoding that meaning gives the packet back. -/
def Obligations.EncodeDecodeAgree : Prop :=
  ∀ (p : Packet) (i : Instr), decode p = .instr i → encode i = p

/-- R84, R85: some words written out from the operation table. -/
def Obligations.TableWordsDecode : Prop :=
  decode { format := .H, nbits := 2, word := 0b10#32 } = .instr .rdstat ∧
  decode { format := .phase, nbits := 4, word := 0b0010#32 } = .instr .pSize ∧
  decode { format := .phase, nbits := 4, word := 0b1010#32 } = .instr .cRound ∧
  decode { format := .phase, nbits := 4, word := 0b1100#32 } = .instr .xNib ∧
  decode { format := .phaseCp, nbits := 25, word := 0b0001000000000000011101001#32 } = .instr (.uEnc2 0xE9#21) ∧
  decode { format := .utf8, nbits := 16, word := 0b1100001110101001#32 } = .instr (.utf8Form2 0xE9#11) ∧
  decode { format := .hexChar, nbits := 8, word := 0b01100101#32 } = .instr .hexCharE ∧
  decode { format := .status, nbits := 8, word := 0b10001101#32 } = .instr (.status true false 0#2 0xD#4)

/-- R77: in phase ENC the thresholds are tested in increasing order and the first that holds selects the row. -/
def Obligations.ThresholdsSelectEncoderRow : Prop :=
  ∀ cp : CodePoint,
    decode { format := .phaseCp, nbits := 25, word := (0x1#4 ++ cp).setWidth 32 } =
      .instr (if cp.toNat ≤ 0x7F then .uEnc1 cp else if cp.toNat ≤ 0x7FF then .uEnc2 cp
        else if cp.toNat ≤ 0xFFFF then .uEnc3 cp else .uEnc4 cp)

/-- R73 to R76, R85: the bytes that the encoder emits for a code point are read back to it by the row of its form. -/
def Obligations.EmittedBytesReadBack : Prop :=
  ∀ cp : CodePoint,
    (cp.toNat ≤ 0x7F → ∃ b0, emit cp = [b0] ∧
      decode { format := .utf8, nbits := 8, word := b0.setWidth 32 } = .instr (.utf8Form1 (cp.setWidth 7))) ∧
    (0x80 ≤ cp.toNat ∧ cp.toNat ≤ 0x7FF → ∃ b0 b1, emit cp = [b0, b1] ∧
      decode { format := .utf8, nbits := 16, word := (b0 ++ b1).setWidth 32 } =
        .instr (.utf8Form2 (cp.setWidth 11))) ∧
    (0x800 ≤ cp.toNat ∧ cp.toNat ≤ 0xFFFF → ∃ b0 b1 b2, emit cp = [b0, b1, b2] ∧
      decode { format := .utf8, nbits := 24, word := (b0 ++ b1 ++ b2).setWidth 32 } =
        .instr (.utf8Form3 (cp.setWidth 16))) ∧
    (0x10000 ≤ cp.toNat → ∃ b0 b1 b2 b3, emit cp = [b0, b1, b2, b3] ∧
      decode { format := .utf8, nbits := 32, word := (b0 ++ b1 ++ b2 ++ b3).setWidth 32 } = .instr (.utf8Form4 cp))

/-! ### The step -/

/-- R180, R186, in the model's own names: a turn of the host runs the instruction its packet encodes, a turn of the busy
engine the instruction its selector encodes, each on the state with that turn taken. -/
def Obligations.StepRunsDecodedInstruction : Prop :=
  ∀ (s : State) (i : Instr) (rest : List Turn),
    (∀ p, s.agenda = .host p :: rest → hostFormat p.format = true → decode p = .instr i →
      step s = exec i (s.withAgenda rest)) ∧
    (s.busy = true → (s.phase = .enc → s.i < s.n) → decode (selector s) = .instr i →
      (s.agenda = [] → step s = exec i s) ∧
      (s.agenda = .engine :: rest → step s = exec i (s.withAgenda rest)))

/-- R31: the phase codes and the engine's next operation in each phase. -/
def Obligations.PhaseSelectsOperation : Prop :=
  ∀ s : State, s.agenda = [] →
    (s.phase = .idle → s.phase.code = 0x0#4 ∧ step s = .next s) ∧
    (s.phase = .enc → s.phase.code = 0x1#4 ∧ (s.i < s.n → ∀ cp : CodePoint, (resolve s.T s.n s.i).1 = cp →
      ((cp.toNat ≤ 0x7F ∧ step s = exec (.uEnc1 cp) s) ∨
       (0x80 ≤ cp.toNat ∧ cp.toNat ≤ 0x7FF ∧ step s = exec (.uEnc2 cp) s) ∨
       (0x800 ≤ cp.toNat ∧ cp.toNat ≤ 0xFFFF ∧ step s = exec (.uEnc3 cp) s) ∨
       (0x10000 ≤ cp.toNat ∧ step s = exec (.uEnc4 cp) s)))) ∧
    (s.phase = .size → s.phase.code = 0x2#4 ∧ step s = exec .pSize s) ∧
    (s.phase = .pack → s.phase.code = 0x3#4 ∧ step s = exec .pPack s) ∧
    (s.phase = .mark → s.phase.code = 0x4#4 ∧ step s = exec .pMark s) ∧
    (s.phase = .len → s.phase.code = 0x5#4 ∧ step s = exec .pLen s) ∧
    (s.phase = .check → s.phase.code = 0x6#4 ∧ step s = exec .pCheck s) ∧
    (s.phase = .init → s.phase.code = 0x7#4 ∧ step s = exec .cInit s) ∧
    (s.phase = .load → s.phase.code = 0x8#4 ∧ step s = exec .cLoad s) ∧
    (s.phase = .expand → s.phase.code = 0x9#4 ∧ step s = exec .cExpand s) ∧
    (s.phase = .round → s.phase.code = 0xA#4 ∧ step s = exec .cRound s) ∧
    (s.phase = .add → s.phase.code = 0xB#4 ∧ step s = exec .cAdd s) ∧
    (s.phase = .hex → s.phase.code = 0xC#4 ∧ step s = exec .xNib s) ∧
    (s.phase = .done → s.phase.code = 0xD#4 ∧ step s = .next s) ∧
    (s.phase = .fault → s.phase.code = 0xE#4 ∧ step s = .next s)

/-- R185, R90: one turn of the polling loop reads the status and then ends with `RDHEX` if done, ends with nothing more
if faulted, and otherwise gives the engine a turn before the next poll (the pace is log entry 5's choice). -/
def Obligations.PollingLoopFollowsStatus : Prop :=
  ∀ (s : State) (rest : List Turn), s.agenda = .poll :: rest →
    ∃ t, step s = .next t ∧ t.response = some (.status s.statusByte) ∧
      t = { s with agenda := t.agenda, response := t.response } ∧
      (s.phase = .done → t.agenda = .host { format := .H, nbits := 2, word := 3#32 } :: rest) ∧
      (s.phase = .fault → t.agenda = rest) ∧
      (s.phase ≠ .done → s.phase ≠ .fault → t.agenda = .engine :: .poll :: rest)

/-! ### Host commands -/

/-- R220: `RESET` is accepted in every state, leaves phase IDLE, fault code 0 and `STATUS` 0x00, and after it no engine
step is enabled. -/
def Obligations.ResetLeavesIdle : Prop :=
  ∀ s : State, ∃ t, exec .reset s = .next t ∧ t.phase = .idle ∧ t.fcode = .none ∧ t.statusByte = 0x00#8 ∧
    t.memWf = true ∧ t.agenda = s.agenda ∧ t.response = s.response ∧ t.reading = s.reading ∧ t.maxUnits = s.maxUnits ∧
    step (t.withAgenda []) = .next (t.withAgenda [])

/-- Nothing of the old data decides what `RESET` leaves. This independence is the model's choice, log entry 3: R220, R226
and R37 leave the data after `RESET` unspecified, the old contents included, and the model draws it from a free value of
the count of draws alone. -/
def Obligations.ResetForgetsData : Prop :=
  ∀ s u : State, s.agenda = u.agenda → s.response = u.response → s.reading = u.reading → s.draws = u.draws →
    s.maxUnits = u.maxUnits → exec .reset s = exec .reset u

/-- R182: `START` in IDLE and DONE latches the whole text and begins an invocation, and in every other phase has no
effect. -/
def Obligations.StartLatchesText : Prop :=
  ∀ (s : State) (text : List CodeUnit), Config.textFits s.maxUnits text.length = true →
    (s.phase = .idle ∨ s.phase = .done →
      ∃ t, exec (.start text) s = .next t ∧
        (∀ (k : Nat) (h : k < text.length), t.T.read k = text[k]) ∧
        t.n = text.length ∧ t.i = 0 ∧ t.nb = 0 ∧ t.fcode = .none ∧
        (text.length = 0 → t.phase = .size) ∧ (text.length ≠ 0 → t.phase = .enc) ∧
        t.busy = true ∧ t.done = false ∧
        t = { s with T := t.T, n := t.n, i := t.i, B := t.B, nb := t.nb, fcode := t.fcode, phase := t.phase }) ∧
    (s.phase ≠ .idle → s.phase ≠ .done → exec (.start text) s = .next s)

/-- D4, U9: a text of more than `MAX_UNITS` code units is given no meaning. -/
def Obligations.OverlongStartIsRefused : Prop :=
  ∀ (s : State) (text : List CodeUnit) (m : Nat), s.maxUnits = some m → m < text.length →
    exec (.start text) s = .refused .tooManyUnits

/-- R183, R33, R34: `RDSTAT` returns {done, busy, fcode, phase} in every phase and changes nothing of the engine. -/
def Obligations.StatusIsReturned : Prop :=
  ∀ s : State, ∃ t b, exec .rdstat s = .next t ∧ t.response = some (.status b) ∧
    b.extractLsb' 0 4 = s.phase.code ∧ b.extractLsb' 4 2 = s.fcode.code ∧
    b.getLsbD 6 = decide (1 ≤ s.phase.code.toNat ∧ s.phase.code.toNat ≤ 12) ∧
    b.getLsbD 7 = decide (s.phase = .done) ∧
    t = { s with response := t.response }

/-- R33, R85: a status that can occur (a fault code exactly in FAULT, R32) is read back by the row STATUS. -/
def Obligations.StatusReadsBack : Prop :=
  ∀ s : State, s.faultAgrees →
    decode { format := .status, nbits := 8, word := s.statusByte.setWidth 32 } =
      .instr (.status s.done s.busy s.fcode.code s.phase.code)

/-- R184, R58: `RDHEX` returns the Hex String in DONE, which stays readable, and elsewhere 64 values that nothing here
says anything about; the engine is untouched either way. -/
def Obligations.HexStringIsReturned : Prop :=
  ∀ s : State, ∃ t, exec .rdhex s = .next t ∧ sameEngine s t ∧ t.agenda = s.agenda ∧
    (s.phase = .done → t.response = some (.hex s.X) ∧ exec .rdhex t = .next t ∧
      t = { s with response := t.response }) ∧
    (s.phase ≠ .done → ∃ chars, t.response = some (.hex chars))

/-- `DIGEST text` becomes `START text` and the polling loop of R185 and R90, in that order; the engine itself is
untouched. The model's choices here: R185's precondition is IDLE or DONE, and that the expansion is run in every other
phase too is log entry 20; that it goes before the turns already listed is log entry 5. -/
def Obligations.DigestExpands : Prop :=
  ∀ (s : State) (text : List CodeUnit),
    ∃ t, exec (.digest text) s = .next t ∧
      t.agenda = .host { format := .H, nbits := 2, word := 1#32, text := text } :: .poll :: s.agenda ∧
      t = { s with agenda := t.agenda }

/-- R39, R58, R190, R223: of all the host's turns only `RESET` and an accepted `START` change the engine's state. -/
def Obligations.OnlyResetAndAcceptedStartChangeEngine : Prop :=
  ∀ (s t : State) (p : Packet) (rest : List Turn), s.agenda = .host p :: rest → step s = .next t →
    sameEngine s t ∨ decode p = .instr .reset ∨
      ∃ text, decode p = .instr (.start text) ∧ (s.phase = .idle ∨ s.phase = .done)

/-! ### UTF-8 Encoder -/

/-- R102, R72: a high surrogate followed inside the text by a low one combines with it and two units are taken; anything
else stands alone and one unit is taken. -/
def Obligations.SurrogatesResolve : Prop :=
  ∀ (T : Mem 16) (n i : Nat),
    (0xD800 ≤ (T.read i).toNat ∧ (T.read i).toNat ≤ 0xDBFF ∧ i + 1 < n ∧
        0xDC00 ≤ (T.read (i + 1)).toNat ∧ (T.read (i + 1)).toNat ≤ 0xDFFF →
      (resolve T n i).1.toNat =
          0x10000 + 1024 * ((T.read i).toNat - 0xD800) + ((T.read (i + 1)).toNat - 0xDC00) ∧
        (resolve T n i).2 = 2) ∧
    (¬ (0xD800 ≤ (T.read i).toNat ∧ (T.read i).toNat ≤ 0xDBFF ∧ i + 1 < n ∧
        0xDC00 ≤ (T.read (i + 1)).toNat ∧ (T.read (i + 1)).toNat ≤ 0xDFFF) →
      (resolve T n i).1.toNat = (T.read i).toNat ∧ (resolve T n i).2 = 1)

/-- R103 to R106, R108: each encoder row appends its bytes, given here by arithmetic, and advances; past the limit it
takes fault entry with nothing appended. -/
def Obligations.EncoderRowsAppend : Prop :=
  ∀ (s : State) (cp : CodePoint), s.i < s.n → s.B.wf = true →
    (cp.toNat ≤ 0x7F → encoderRow (.uEnc1 cp) [BitVec.ofNat 8 cp.toNat] s) ∧
    (0x80 ≤ cp.toNat → cp.toNat ≤ 0x7FF →
      encoderRow (.uEnc2 cp) [BitVec.ofNat 8 (0xC0 + cp.toNat / 64), BitVec.ofNat 8 (0x80 + cp.toNat % 64)] s) ∧
    (0x800 ≤ cp.toNat → cp.toNat ≤ 0xFFFF →
      encoderRow (.uEnc3 cp)
        [BitVec.ofNat 8 (0xE0 + cp.toNat / 4096), BitVec.ofNat 8 (0x80 + cp.toNat / 64 % 64),
          BitVec.ofNat 8 (0x80 + cp.toNat % 64)] s) ∧
    (0x10000 ≤ cp.toNat →
      encoderRow (.uEnc4 cp)
        [BitVec.ofNat 8 (0xF0 + cp.toNat / 262144), BitVec.ofNat 8 (0x80 + cp.toNat / 4096 % 64),
          BitVec.ofNat 8 (0x80 + cp.toNat / 64 % 64), BitVec.ofNat 8 (0x80 + cp.toNat % 64)] s)

/-- R107: `U.DROP` consumes the item and appends nothing. -/
def Obligations.DropConsumesItem : Prop :=
  ∀ (s : State) (cp : BitVec 22), s.i < s.n →
    ∃ t, exec (.uDrop cp) s = .next t ∧ t.i = s.i + (resolve s.T s.n s.i).2 ∧
      t.phase = (if t.i = s.n then .size else .enc) ∧ t = { s with i := t.i, phase := t.phase }

/-- R72, R107: a code point the engine resolves is at most 0x10FFFF, and its selector never encodes `U.DROP`. -/
def Obligations.DropIsNeverSelected : Prop :=
  ∀ s : State, (resolve s.T s.n s.i).1.toNat ≤ 0x10FFFF ∧ ∀ cp, decode (selector s) ≠ .instr (.uDrop cp)

/-- R40: every code unit accounts for at least one byte. -/
def Obligations.UnitsGiveBytes : Prop :=
  ∀ text : List CodeUnit, (items text).length ≤ text.length ∧ text.length ≤ (encodeUtf8 text).length

/-! ### Block Padder/Packer -/

/-- R121: `nblk` blocks hold the message, the marker bit, the smallest number of zero bits that makes the length
congruent to 448 modulo 512, and the 64-bit length field. -/
def Obligations.BlockCountIsLeast : Prop :=
  ∀ nb : Nat, blocksFor nb = (nb + 8) / 64 + 1 ∧
    ∃ z : Nat, (8 * nb + 1 + z) % 512 = 448 ∧ (∀ z', (8 * nb + 1 + z') % 512 = 448 → z ≤ z') ∧
      8 * nb + 1 + z + 64 = 512 * blocksFor nb

/-- R122: `P.SIZE` computes the sizes without loss for an admitted length and clears the Word Block Array. That words at
`N` and beyond, which R122 does not write and R50 puts outside the space, read zero as well is the model's choice, log
entry 2. -/
def Obligations.SizesAreComputed : Prop :=
  ∀ s : State, ∃ t, exec .pSize s = .next t ∧
    (s.nb ≤ 2 ^ 29 - 1 → t.L.toNat = 8 * s.nb) ∧ t.L = BitVec.ofNat 32 (8 * s.nb) ∧
    t.nblk = (s.nb + 8) / 64 + 1 ∧ t.N = 16 * ((s.nb + 8) / 64 + 1) ∧ (∀ k, t.M.read k = 0#32) ∧ t.j = 0 ∧
    (s.nb = 0 → t.phase = .mark) ∧ (s.nb ≠ 0 → t.phase = .pack) ∧
    t = { s with L := t.L, nblk := t.nblk, N := t.N, M := t.M, j := t.j, phase := t.phase }

/-- R123, R52: `P.PACK` ORs its byte into the big-endian lane of its position and leaves the other lanes and the other
words as they were. -/
def Obligations.BytesArePackedBigEndian : Prop :=
  ∀ s : State, s.M.wf = true → s.j < s.nb → s.j / 4 < s.N →
    ∃ t, exec .pPack s = .next t ∧
      (∀ q, q < 4 → laneByte (t.M.read (s.j / 4)) q =
        if q = s.j % 4 then laneByte (s.M.read (s.j / 4)) q ||| s.B.read s.j else laneByte (s.M.read (s.j / 4)) q) ∧
      (∀ a, a ≠ s.j / 4 → t.M.read a = s.M.read a) ∧ t.j = s.j + 1 ∧
      t.phase = (if s.j + 1 = s.nb then .mark else .pack) ∧
      t = { s with M := t.M, j := t.j, phase := t.phase }

/-- R124: `P.MARK` ORs the marker 0x80 into the lane of the first position after the message, and where the array has
room for the marker and the length field it touches neither length word. -/
def Obligations.MarkerIsAppended : Prop :=
  ∀ s : State, s.M.wf = true → s.nb / 4 < s.N →
    ∃ t, exec .pMark s = .next t ∧
      (∀ q, q < 4 → laneByte (t.M.read (s.nb / 4)) q =
        if q = s.nb % 4 then laneByte (s.M.read (s.nb / 4)) q ||| 0x80#8 else laneByte (s.M.read (s.nb / 4)) q) ∧
      (∀ a, a ≠ s.nb / 4 → t.M.read a = s.M.read a) ∧
      (s.nb + 9 ≤ 4 * s.N → t.M.read (s.N - 1) = s.M.read (s.N - 1) ∧ t.M.read (s.N - 2) = s.M.read (s.N - 2)) ∧
      t.phase = .len ∧ t = { s with M := t.M, phase := t.phase }

/-- R125: `P.LEN` stores the length in the last word; the upper length word is not written. -/
def Obligations.LengthIsStored : Prop :=
  ∀ s : State, s.M.wf = true → 0 < s.N →
    ∃ t, exec .pLen s = .next t ∧ t.M.read (s.N - 1) = s.L ∧ (∀ a, a ≠ s.N - 1 → t.M.read a = s.M.read a) ∧
      t.phase = .check ∧ t = { s with M := t.M, phase := t.phase }

/-- R126, R203, R204: `P.CHECK` passes a word count that is a multiple of 16, and takes fault entry `BlockCount` with
everything else kept for any other. -/
def Obligations.WordCountIsChecked : Prop :=
  ∀ s : State,
    (s.N % 16 = 0 → exec .pCheck s = .next { s with phase := .init }) ∧
    (s.N % 16 ≠ 0 → ∃ t, exec .pCheck s = .next t ∧ t.fcode.code = 2#2 ∧ t.phase = .fault ∧
      t.statusByte = 0x2E#8 ∧ t = { s with fcode := t.fcode, phase := t.phase })

/-! ### Compression Engine -/

/-- R141, R142: the tables are the first 32 bits of the fractional parts of the square roots of the first eight primes
and of the cube roots of the first 64. -/
def Obligations.TablesAreRootFractions : Prop :=
  (∀ k : Fin 8, (IV[k]).toNat = ⌊Int.fract (Real.sqrt (Nat.nth Nat.Prime k)) * 2 ^ 32⌋₊) ∧
  (∀ k : Fin 64, (K[k]).toNat = ⌊Int.fract ((Nat.nth Nat.Prime k : ℝ) ^ (1 / 3 : ℝ)) * 2 ^ 32⌋₊)

/-- R144: `Ch` chooses, `Maj` takes the majority, bit by bit. -/
def Obligations.ChooseAndMajority : Prop :=
  ∀ (x y z : Word) (k : Nat), k < 32 →
    (ch x y z).getLsbD k = (if x.getLsbD k then y.getLsbD k else z.getLsbD k) ∧
    (maj x y z).getLsbD k = decide (2 ≤ (x.getLsbD k).toNat + (y.getLsbD k).toNat + (z.getLsbD k).toNat)

/-- R145 to R148, R155: each mixing function as the bits it takes, rotations wrapping round the word and shifts filling
with zero. -/
def Obligations.MixingFunctionsTakeBits : Prop :=
  ∀ (x : Word) (k : Nat), k < 32 →
    (bigSigma0 x).getLsbD k = ((x.getLsbD ((k + 2) % 32) ^^ x.getLsbD ((k + 13) % 32)) ^^ x.getLsbD ((k + 22) % 32)) ∧
    (bigSigma1 x).getLsbD k = ((x.getLsbD ((k + 6) % 32) ^^ x.getLsbD ((k + 11) % 32)) ^^ x.getLsbD ((k + 25) % 32)) ∧
    (smallSigma0 x).getLsbD k =
      ((x.getLsbD ((k + 7) % 32) ^^ x.getLsbD ((k + 18) % 32)) ^^ (decide (k + 3 < 32) && x.getLsbD (k + 3))) ∧
    (smallSigma1 x).getLsbD k =
      ((x.getLsbD ((k + 17) % 32) ^^ x.getLsbD ((k + 19) % 32)) ^^ (decide (k + 10 < 32) && x.getLsbD (k + 10)))

/-- R150: `C.INIT` loads the initialisation vector. -/
def Obligations.HashStateIsInitialised : Prop :=
  ∀ s : State, ∃ t, exec .cInit s = .next t ∧ t.H = IV ∧
    IV.toList = [0x6A09E667#32, 0xBB67AE85#32, 0x3C6EF372#32, 0xA54FF53A#32, 0x510E527F#32, 0x9B05688C#32,
      0x1F83D9AB#32, 0x5BE0CD19#32] ∧
    t.blk = 0 ∧ t.phase = .load ∧ t = { s with H := t.H, blk := t.blk, phase := t.phase }

/-- R151: `C.LOAD` copies the block into the schedule and the Hash State into the working variables. -/
def Obligations.BlockIsLoaded : Prop :=
  ∀ s : State, 16 * s.blk + 15 < s.N →
    ∃ t, exec .cLoad s = .next t ∧
      (∀ k : Fin 64, k.1 < 16 → t.W[k] = s.M.read (16 * s.blk + k.1)) ∧
      (∀ k : Fin 64, 16 ≤ k.1 → t.W[k] = s.W[k]) ∧
      (∀ k : Fin 8, t.v[k] = s.H[k]) ∧ t.t = 16 ∧ t.phase = .expand ∧
      t = { s with W := t.W, v := t.v, t := t.t, phase := t.phase }

/-- R152, R143: `C.EXPAND` computes one schedule word by the recurrence. -/
def Obligations.ScheduleIsExpanded : Prop :=
  ∀ (s : State) (_ : 16 ≤ s.t) (_ : s.t ≤ 63),
    ∃ t, exec .cExpand s = .next t ∧
      t.W[s.t] = smallSigma1 s.W[s.t - 2] + s.W[s.t - 7] + smallSigma0 s.W[s.t - 15] + s.W[s.t - 16] ∧
      (∀ k : Fin 64, k.1 ≠ s.t → t.W[k] = s.W[k]) ∧
      (s.t = 63 → t.t = 0 ∧ t.phase = .round) ∧ (s.t < 63 → t.t = s.t + 1 ∧ t.phase = .expand) ∧
      t = { s with W := t.W, t := t.t, phase := t.phase }

/-- R153, R149: `C.ROUND` moves the eight working variables at once. -/
def Obligations.RoundMovesVariables : Prop :=
  ∀ (s : State) (_ : s.t ≤ 63),
    ∃ t T1 T2, exec .cRound s = .next t ∧
      T1 = s.v[7] + bigSigma1 s.v[4] + ch s.v[4] s.v[5] s.v[6] + K[s.t] + s.W[s.t] ∧
      T2 = bigSigma0 s.v[0] + maj s.v[0] s.v[1] s.v[2] ∧
      t.v[0] = T1 + T2 ∧ t.v[1] = s.v[0] ∧ t.v[2] = s.v[1] ∧ t.v[3] = s.v[2] ∧
      t.v[4] = s.v[3] + T1 ∧ t.v[5] = s.v[4] ∧ t.v[6] = s.v[5] ∧ t.v[7] = s.v[6] ∧
      (s.t = 63 → t.t = 63 ∧ t.phase = .add) ∧ (s.t < 63 → t.t = s.t + 1 ∧ t.phase = .round) ∧
      t = { s with v := t.v, t := t.t, phase := t.phase }

/-- R154, R155: `C.ADD` adds the working variables into the Hash State modulo 2^32 and goes on to the next block or to
the formatter. -/
def Obligations.BlockIsAddedBack : Prop :=
  ∀ s : State, ∃ t, exec .cAdd s = .next t ∧
    (∀ k : Fin 8, (t.H[k]).toNat = ((s.H[k]).toNat + (s.v[k]).toNat) % 2 ^ 32) ∧ t.blk = s.blk + 1 ∧
    (s.blk + 1 = s.nblk → t.p = 0 ∧ t.phase = .hex) ∧ (s.blk + 1 ≠ s.nblk → t.p = s.p ∧ t.phase = .load) ∧
    t = { s with H := t.H, blk := t.blk, p := t.p, phase := t.phase }

/-! ### Hex Encoder -/

/-- R172, R171, R82: `X.NIB` writes the character of one nibble, the most significant nibble of `H[0]` first. -/
def Obligations.NibbleIsRendered : Prop :=
  ∀ (s : State) (_ : s.p ≤ 63),
    ∃ t d, exec .xNib s = .next t ∧ d = (s.H[s.p / 8]).toNat / 16 ^ (7 - s.p % 8) % 16 ∧
      (d ≤ 9 → (t.X[s.p]).toNat = 0x30 + d) ∧ (10 ≤ d → (t.X[s.p]).toNat = 0x57 + d) ∧
      (∀ q : Fin 64, q.1 ≠ s.p → t.X[q] = s.X[q]) ∧
      (s.p = 63 → t.p = 63 ∧ t.phase = .done) ∧ (s.p < 63 → t.p = s.p + 1 ∧ t.phase = .hex) ∧
      t = { s with X := t.X, p := t.p, phase := t.phase }

/-- R173: the result has 64 characters and each is one of the sixteen codes. -/
def Obligations.HexAlphabet : Prop :=
  ∀ H : Vector Word 8, (toHex H).toList.length = 64 ∧
    ∀ c ∈ (toHex H).toList, (0x30#8 ≤ c ∧ c ≤ 0x39#8) ∨ (0x61#8 ≤ c ∧ c ≤ 0x66#8)

/-- R170: different states give different strings. -/
def Obligations.HexStringDeterminesState : Prop :=
  ∀ H G : Vector Word 8, toHex H = toHex G → H = G

/-! ### Output encodings -/

/-- R82, R85: a reader takes each of the sixteen characters back to its value; these rows are no operations, so nothing
of the engine changes (the reader is log entry 4's choice). -/
def Obligations.HexCharacterRowsAreRead : Prop :=
  ∀ s : State,
    exec .hexChar0 s = .next { s with reading := some (.digit 0x0#4 0x30#8) } ∧
    exec .hexChar1 s = .next { s with reading := some (.digit 0x1#4 0x31#8) } ∧
    exec .hexChar2 s = .next { s with reading := some (.digit 0x2#4 0x32#8) } ∧
    exec .hexChar3 s = .next { s with reading := some (.digit 0x3#4 0x33#8) } ∧
    exec .hexChar4 s = .next { s with reading := some (.digit 0x4#4 0x34#8) } ∧
    exec .hexChar5 s = .next { s with reading := some (.digit 0x5#4 0x35#8) } ∧
    exec .hexChar6 s = .next { s with reading := some (.digit 0x6#4 0x36#8) } ∧
    exec .hexChar7 s = .next { s with reading := some (.digit 0x7#4 0x37#8) } ∧
    exec .hexChar8 s = .next { s with reading := some (.digit 0x8#4 0x38#8) } ∧
    exec .hexChar9 s = .next { s with reading := some (.digit 0x9#4 0x39#8) } ∧
    exec .hexCharA s = .next { s with reading := some (.digit 0xA#4 0x61#8) } ∧
    exec .hexCharB s = .next { s with reading := some (.digit 0xB#4 0x62#8) } ∧
    exec .hexCharC s = .next { s with reading := some (.digit 0xC#4 0x63#8) } ∧
    exec .hexCharD s = .next { s with reading := some (.digit 0xD#4 0x64#8) } ∧
    exec .hexCharE s = .next { s with reading := some (.digit 0xE#4 0x65#8) } ∧
    exec .hexCharF s = .next { s with reading := some (.digit 0xF#4 0x66#8) }

/-- R82, R85: the character of every nibble is read back to that nibble by its own row. -/
def Obligations.RenderedCharactersReadBack : Prop :=
  ∀ d : Nibble, ∃ i, decode { format := .hexChar, nbits := 8, word := (hexchar d).setWidth 32 } = .instr i ∧
    ∀ s : State, exec i s = .next { s with reading := some (.digit d (hexchar d)) }

/-- R33, R73 to R76, R85: a reader takes a byte sequence back to its code point and bytes, and a status to its fields;
these rows are no operations, so nothing of the engine changes (the reader is log entry 4's choice). -/
def Obligations.SequenceAndStatusRowsAreRead : Prop :=
  ∀ s : State,
    (∀ c : BitVec 7, ∃ cp bytes, exec (.utf8Form1 c) s = .next { s with reading := some (.codePoint cp bytes) } ∧
      cp.toNat = c.toNat ∧ bytes = [BitVec.ofNat 8 c.toNat]) ∧
    (∀ c : BitVec 11, ∃ cp bytes, exec (.utf8Form2 c) s = .next { s with reading := some (.codePoint cp bytes) } ∧
      cp.toNat = c.toNat ∧
      bytes = [BitVec.ofNat 8 (0xC0 + c.toNat / 64), BitVec.ofNat 8 (0x80 + c.toNat % 64)]) ∧
    (∀ c : BitVec 16, ∃ cp bytes, exec (.utf8Form3 c) s = .next { s with reading := some (.codePoint cp bytes) } ∧
      cp.toNat = c.toNat ∧
      bytes = [BitVec.ofNat 8 (0xE0 + c.toNat / 4096), BitVec.ofNat 8 (0x80 + c.toNat / 64 % 64),
        BitVec.ofNat 8 (0x80 + c.toNat % 64)]) ∧
    (∀ c : BitVec 21, ∃ bytes, exec (.utf8Form4 c) s = .next { s with reading := some (.codePoint c bytes) } ∧
      bytes = [BitVec.ofNat 8 (0xF0 + c.toNat / 262144), BitVec.ofNat 8 (0x80 + c.toNat / 4096 % 64),
        BitVec.ofNat 8 (0x80 + c.toNat / 64 % 64), BitVec.ofNat 8 (0x80 + c.toNat % 64)]) ∧
    (∀ (done busy : Bool) (fcode : BitVec 2) (phase : BitVec 4),
      exec (.status done busy fcode phase) s = .next { s with reading := some (.status done busy fcode phase) })

/-! ### Faults and invariants -/

/-- R205: only `RESET` leaves FAULT, and until then the fault code stays. -/
def Obligations.OnlyResetLeavesFault : Prop :=
  ∀ s t : State, s.phase = .fault → step s = .next t →
    (t.phase = .fault ∧ t.fcode = s.fcode) ∨
    ∃ p rest, s.agenda = .host p :: rest ∧ decode p = .instr .reset ∧ t.phase = .idle ∧ t.fcode = .none

/-- R68, in the model's own terms: where the precondition of an operation's phase is broken there is no element to
access, and the operation stops by name (log entry 10's choice). -/
def Obligations.BrokenPreconditionsStop : Prop :=
  ∀ s : State,
    (s.n ≤ s.i → ∀ (cp : CodePoint) (wide : BitVec 22),
      exec (.uEnc1 cp) s = .fault (.outOfRange .T) ∧ exec (.uEnc2 cp) s = .fault (.outOfRange .T) ∧
      exec (.uEnc3 cp) s = .fault (.outOfRange .T) ∧ exec (.uEnc4 cp) s = .fault (.outOfRange .T) ∧
      exec (.uDrop wide) s = .fault (.outOfRange .T)) ∧
    (s.nb ≤ s.j → exec .pPack s = .fault (.outOfRange .B)) ∧
    (s.j < s.nb → s.N ≤ s.j / 4 → exec .pPack s = .fault (.outOfRange .M)) ∧
    (s.N ≤ s.nb / 4 → exec .pMark s = .fault (.outOfRange .M)) ∧
    (s.N = 0 → exec .pLen s = .fault (.outOfRange .M)) ∧
    (s.N ≤ 16 * s.blk + 15 → exec .cLoad s = .fault (.outOfRange .M)) ∧
    (s.t < 16 ∨ 63 < s.t → exec .cExpand s = .fault (.outOfRange .W)) ∧
    (63 < s.t → exec .cRound s = .fault (.outOfRange .K)) ∧
    (63 < s.p → exec .xNib s = .fault (.outOfRange .X))

/-- R37: the state after reset meets the invariant. -/
def Obligations.ResetStateMeetsInvariant : Prop := State.Inv State.reset

/-- R32, R38, R40, R68: every step keeps the invariant, whoever moves and whatever the host hands over. -/
def Obligations.StepKeepsInvariant : Prop :=
  ∀ s t : State, s.Inv → step s = .next t → t.Inv

/-- R68, R55: under the invariant no step forms an index outside its space. -/
def Obligations.EveryIndexIsInRange : Prop :=
  ∀ (s : State) (f : Fault), s.Inv → step s ≠ .fault f

/-- R186: under the invariant a busy engine has exactly one enabled step, it completes, and it takes one of the edges of
the transition graph. -/
def Obligations.EngineFollowsTransitionGraph : Prop :=
  ∀ s : State, s.Inv → s.agenda = [] → s.busy = true → ∃ t, step s = .next t ∧ edge s t.phase

/-- R62: each buffer is written only by its owning stage. -/
def Obligations.BuffersBelongToStages : Prop :=
  ∀ s t : State, s.agenda = [] → step s = .next t →
    t.T = s.T ∧ t.n = s.n ∧
    (s.phase ≠ .enc → t.B = s.B ∧ t.nb = s.nb) ∧
    (s.phase ≠ .size → s.phase ≠ .pack → s.phase ≠ .mark → s.phase ≠ .len →
      t.M = s.M ∧ t.N = s.N ∧ t.nblk = s.nblk ∧ t.L = s.L) ∧
    (s.phase ≠ .init → s.phase ≠ .add → t.H = s.H) ∧
    (s.phase ≠ .hex → t.X = s.X)

/-! ### Runs -/

/-- R100, R101: the steps of phase ENC leave `encodeUtf8` of the text in the Byte Stream, one step per item. -/
def Obligations.EncoderComputesEncodeUtf8 : Prop :=
  ∀ (s : State) (text : List CodeUnit), s.phase = .enc → s.agenda = [] → s.i = 0 → s.nb = 0 → s.B.wf = true →
    text ≠ [] → s.n = text.length → s.T.toList s.n = text → (encodeUtf8 text).length ≤ Config.maxBytes →
    ∃ t, runsCleanly (items text).length s t ∧ t.phase = .size ∧ t.i = s.n ∧ t.B.toList t.nb = encodeUtf8 text ∧
      t = { s with B := t.B, nb := t.nb, i := t.i, phase := t.phase }

/-- R127, R120: phases SIZE to LEN leave both results of `packBlocks` of the Byte Stream, the words in the Word Block
Array and the bit length in `L`. -/
def Obligations.PadderComputesPackBlocks : Prop :=
  ∀ s : State, s.phase = .size → s.agenda = [] → s.nb ≤ Config.maxBytes →
    ∃ t, runsCleanly (s.nb + 3) s t ∧ t.phase = .check ∧ t.L.toNat = 8 * s.nb ∧ t.nblk = blocksFor s.nb ∧
      t.N = 16 * t.nblk ∧ t.M.toList t.N = (packBlocks (s.B.toList s.nb)).words ∧
      t.L.setWidth 64 = (packBlocks (s.B.toList s.nb)).bitLength ∧
      t = { s with L := t.L, nblk := t.nblk, N := t.N, M := t.M, j := t.j, phase := t.phase }

/-- R140, R156: phases CHECK to ADD leave `compress` of the Word Block Array in the Hash State. -/
def Obligations.CompressionComputesCompress : Prop :=
  ∀ s : State, s.phase = .check → s.agenda = [] → 0 < s.nblk → s.N = 16 * s.nblk →
    ∃ t, runsCleanly (2 + 114 * s.nblk) s t ∧ t.phase = .hex ∧ t.p = 0 ∧
      t.H = compress (s.M.toList s.N) s.nblk ∧
      t = { s with H := t.H, v := t.v, W := t.W, blk := t.blk, t := t.t, p := t.p, phase := t.phase }

/-- R170, R173: the 64 steps of phase HEX leave `toHex` of the Hash State in the Hex String. -/
def Obligations.FormatterComputesToHex : Prop :=
  ∀ s : State, s.phase = .hex → s.agenda = [] → s.p = 0 →
    ∃ t, runsCleanly 64 s t ∧ t.phase = .done ∧ t.p = 63 ∧ t.X = toHex s.H ∧
      t = { s with X := t.X, p := t.p, phase := t.phase }

/-- R187, R14: an accepted `START` of an admitted text reaches DONE without passing through FAULT, and every stage has
computed its function. -/
def Obligations.InvocationComputesDigest : Prop :=
  ∀ (s : State) (text : List CodeUnit), aboutToStart s text → (encodeUtf8 text).length ≤ Config.maxBytes →
    ∃ k t, runsCleanly k s t ∧ t.phase = .done ∧ t.fcode = .none ∧
      t.B.toList t.nb = encodeUtf8 text ∧ t.M.toList t.N = (packBlocks (encodeUtf8 text)).words ∧
      t.L.setWidth 64 = (packBlocks (encodeUtf8 text)).bitLength ∧
      t.L.toNat = 8 * (encodeUtf8 text).length ∧
      t.H = compress (packBlocks (encodeUtf8 text)).words (blocksFor (encodeUtf8 text).length) ∧
      t.X = digestHex text

/-- R187, R202: a text whose encoding is longer than the limit ends in FAULT with fault code 1 and is never DONE. -/
def Obligations.OverlongTextFaults : Prop :=
  ∀ (s : State) (text : List CodeUnit), aboutToStart s text → Config.maxBytes < (encodeUtf8 text).length →
    (∃ k t, Host.Core.run core k s = .next t ∧ t.phase = .fault ∧ t.fcode = .lengthOverflow) ∧
    ∀ (m : Nat) (u : State), 1 ≤ m → Host.Core.run core m s = .next u → u.phase ≠ .done

/-- R230: the number of steps from the accepted `START`, not counted, to DONE. -/
def Obligations.InvocationTakesStepCount : Prop :=
  ∀ (s : State) (text : List CodeUnit), aboutToStart s text → (encodeUtf8 text).length ≤ Config.maxBytes →
    ∀ m, m ≤ stepCount text →
      ∃ u : State, Host.Core.run core (1 + m) s = .next u ∧ (u.phase = .done ↔ m = stepCount text)

/-- R231: the number of steps is bounded. -/
def Obligations.StepCountIsBounded : Prop :=
  ∀ text : List CodeUnit, (encodeUtf8 text).length ≤ Config.maxBytes →
    stepCount text ≤ text.length + 2 ^ 29 + 114 * (2 ^ 23 + 1) + 69

/-- R185, R14: `DIGEST` of an admitted text ends with the 64 characters of `digestHex` handed to the host and no turn
left. -/
def Obligations.DigestReturnsHexString : Prop :=
  ∀ (s : State) (text : List CodeUnit), s.ready = true → s.agenda = [.host (encode (.digest text))] →
    Config.textFits s.maxUnits text.length = true → (encodeUtf8 text).length ≤ Config.maxBytes →
    ∃ (k : Nat) (t : State), Host.Core.run core k s = .next t ∧ t.agenda = [] ∧ t.phase = .done ∧
      t.response = some (.hex (digestHex text))

/-- R38, R189: from any two states that accept the same text, the runs go through the same phases and fault codes and
end with the same Hex String, whatever either state held before. -/
def Obligations.ResultDependsOnTextOnly : Prop :=
  ∀ (s u : State) (text : List CodeUnit), aboutToStart s text → aboutToStart u text →
    ∀ (k : Nat) (t : State), 1 ≤ k → Host.Core.run core k s = .next t →
      ∃ r : State, Host.Core.run core k u = .next r ∧ r.phase = t.phase ∧ r.fcode = t.fcode ∧
        (t.phase = .done → r.X = t.X)

/-- R64, R210: whatever the interleaving, each engine ends as if it had run alone for as many steps as it was given. -/
def Obligations.EnginesAreIndependent : Prop :=
  ∀ (schedule : List Nat) (engines : List Result) (k : Nat),
    (runSchedule schedule engines)[k]? = (engines[k]?).map (advanceBy (schedule.count k))
end

