-- ==== Sys2Proof/Laws/Memory.lean ====
section
/-! SUPPORT. The laws of the index spaces: a read after a write, and that every operation keeps the canonical form. -/

namespace Sys2Proof

variable {w : Nat}

@[simp] theorem Mem.read_nil (a : Nat) : Mem.read ([] : Mem w) a = 0#w := rfl

@[simp] theorem Mem.read_cons (b : Nat) (x : BitVec w) (rest : Mem w) (a : Nat) :
    Mem.read ((b, x) :: rest) a = if a = b then x else Mem.read rest a := rfl

/-- An index below every listed one reads as unlisted. -/
theorem Mem.read_of_wfFrom {lo : Nat} {m : Mem w} (h : Mem.wfFrom lo m = true) {a : Nat} (ha : a < lo) :
    Mem.read m a = 0#w := by
  induction m generalizing lo with
  | nil => rfl
  | cons c rest ih =>
    obtain ⟨b, x⟩ := c
    simp only [Mem.wfFrom, Bool.and_eq_true, decide_eq_true_eq] at h
    have : a ≠ b := by omega
    simpa [this] using ih h.2 (by omega)

theorem Mem.wfFrom_mono {lo hi : Nat} {m : Mem w} (h : Mem.wfFrom hi m = true) (hl : lo ≤ hi) :
    Mem.wfFrom lo m = true := by
  cases m with
  | nil => rfl
  | cons c rest =>
    obtain ⟨b, x⟩ := c
    simp only [Mem.wfFrom, Bool.and_eq_true, decide_eq_true_eq] at h ⊢
    exact ⟨⟨by omega, h.1.2⟩, h.2⟩

theorem Mem.wfFrom_consCell {lo a : Nat} {x : BitVec w} {rest : Mem w} (h : Mem.wfFrom (a + 1) rest = true)
    (ha : lo ≤ a) : Mem.wfFrom lo (Mem.consCell a x rest) = true := by
  unfold Mem.consCell
  split
  · exact Mem.wfFrom_mono h (by omega)
  · rename_i hx
    simp [Mem.wfFrom, ha, hx, h]

theorem Mem.wfFrom_write {lo a : Nat} {x : BitVec w} {m : Mem w} (h : Mem.wfFrom lo m = true) (ha : lo ≤ a) :
    Mem.wfFrom lo (m.write a x) = true := by
  induction m generalizing lo with
  | nil => exact Mem.wfFrom_consCell rfl ha
  | cons c rest ih =>
    obtain ⟨b, y⟩ := c
    have h' := h
    simp only [Mem.wfFrom, Bool.and_eq_true, decide_eq_true_eq] at h'
    unfold Mem.write
    split
    · refine Mem.wfFrom_consCell ?_ ha
      simp only [Mem.wfFrom, Bool.and_eq_true, decide_eq_true_eq]
      exact ⟨⟨by omega, h'.1.2⟩, h'.2⟩
    · split
      · rename_i _ hab
        exact Mem.wfFrom_consCell (hab ▸ h'.2) ha
      · simp only [Mem.wfFrom, Bool.and_eq_true, decide_eq_true_eq]
        exact ⟨h'.1, ih h'.2 (by omega)⟩

theorem Mem.read_consCell {a b : Nat} {x : BitVec w} {rest : Mem w} (h : Mem.wfFrom (a + 1) rest = true) :
    Mem.read (Mem.consCell a x rest) b = if b = a then x else Mem.read rest b := by
  unfold Mem.consCell
  split
  · rename_i hx
    split
    · rename_i hb
      rw [Mem.read_of_wfFrom h (by omega), hx]
      rfl
    · rfl
  · rfl

/-- A read after a write: the value written at its index, the old value at every other. -/
theorem Mem.read_write_of_wfFrom {lo : Nat} {m : Mem w} (h : Mem.wfFrom lo m = true) (a b : Nat) (x : BitVec w) :
    (m.write a x).read b = if b = a then x else m.read b := by
  induction m generalizing lo with
  | nil => exact Mem.read_consCell rfl
  | cons c rest ih =>
    obtain ⟨d, y⟩ := c
    have h' := h
    simp only [Mem.wfFrom, Bool.and_eq_true, decide_eq_true_eq] at h'
    unfold Mem.write
    split
    · refine Mem.read_consCell ?_
      simp only [Mem.wfFrom, Bool.and_eq_true, decide_eq_true_eq]
      exact ⟨⟨by omega, h'.1.2⟩, h'.2⟩
    · split
      · rename_i _ had
        rw [Mem.read_consCell (had ▸ h'.2)]
        subst had
        by_cases hb : b = a <;> simp [hb]
      · rename_i hlt hne
        rw [Mem.read_cons, ih h'.2, Mem.read_cons]
        by_cases hbd : b = d
        · have : b ≠ a := by omega
          simp [hbd, show d ≠ a by omega]
        · simp [hbd]

theorem Mem.read_write {m : Mem w} (h : m.wf = true) (a b : Nat) (x : BitVec w) :
    (m.write a x).read b = if b = a then x else m.read b := Mem.read_write_of_wfFrom h a b x

theorem Mem.read_write_self {m : Mem w} (h : m.wf = true) (a : Nat) (x : BitVec w) : (m.write a x).read a = x := by
  simp [Mem.read_write h]

theorem Mem.read_write_other {m : Mem w} (h : m.wf = true) {a b : Nat} (hb : b ≠ a) (x : BitVec w) :
    (m.write a x).read b = m.read b := by
  simp [Mem.read_write h, hb]

@[simp] theorem Mem.wf_nil : Mem.wf ([] : Mem w) = true := rfl

theorem Mem.wf_write {m : Mem w} (h : m.wf = true) (a : Nat) (x : BitVec w) : (m.write a x).wf = true :=
  Mem.wfFrom_write h (Nat.zero_le a)

theorem Mem.wf_writeList {m : Mem w} (h : m.wf = true) (a : Nat) (xs : List (BitVec w)) :
    (m.writeList a xs).wf = true := by
  induction xs generalizing m a with
  | nil => exact h
  | cons x xs ih => exact ih (Mem.wf_write h a x) (a + 1)

theorem Mem.read_writeList {m : Mem w} (h : m.wf = true) (a b : Nat) (xs : List (BitVec w)) :
    (m.writeList a xs).read b = if a ≤ b ∧ b < a + xs.length then xs.getD (b - a) 0#w else m.read b := by
  induction xs generalizing m a with
  | nil =>
    simp [Mem.writeList]
  | cons x xs ih =>
    rw [Mem.writeList, ih (Mem.wf_write h a x), Mem.read_write h]
    by_cases hab : b = a
    · subst hab
      simp
    · by_cases hin : a + 1 ≤ b ∧ b < a + 1 + xs.length
      · have h2 : a ≤ b ∧ b < a + (x :: xs).length := by simp only [List.length_cons]; omega
        rw [if_pos hin, if_pos h2]
        have hs : b - a = (b - (a + 1)) + 1 := by omega
        rw [hs, List.getD_cons_succ]
      · have h2 : ¬ (a ≤ b ∧ b < a + (x :: xs).length) := by simp only [List.length_cons]; omega
        rw [if_neg hin, if_neg h2, if_neg hab]

theorem Mem.wfFrom_ofListFrom (a : Nat) (xs : List (BitVec w)) : Mem.wfFrom a (Mem.ofListFrom a xs) = true := by
  induction xs generalizing a with
  | nil => rfl
  | cons x xs ih => exact Mem.wfFrom_consCell (ih (a + 1)) (Nat.le_refl a)

theorem Mem.wf_ofListFrom (a : Nat) (xs : List (BitVec w)) : (Mem.ofListFrom a xs).wf = true :=
  Mem.wfFrom_mono (Mem.wfFrom_ofListFrom a xs) (Nat.zero_le a)

theorem Mem.read_ofListFrom (a b : Nat) (xs : List (BitVec w)) :
    (Mem.ofListFrom a xs).read b = if a ≤ b then xs.getD (b - a) 0#w else 0#w := by
  induction xs generalizing a with
  | nil => simp [Mem.ofListFrom]
  | cons x xs ih =>
    rw [Mem.ofListFrom, Mem.read_consCell (Mem.wfFrom_ofListFrom (a + 1) xs), ih]
    by_cases hab : b = a
    · subst hab
      simp
    · by_cases hle : a + 1 ≤ b
      · have hs : b - a = (b - (a + 1)) + 1 := by omega
        rw [if_neg hab, if_pos hle, if_pos (by omega), hs, List.getD_cons_succ]
      · rw [if_neg hab, if_neg hle, if_neg (by omega)]

theorem Mem.wf_ofCells (cells : List (Nat × BitVec w)) : (Mem.ofCells cells).wf = true := by
  induction cells with
  | nil => rfl
  | cons c rest ih => exact Mem.wf_write ih c.1 c.2

end Sys2Proof
end

