-- ==== Sys2Proof/Laws/State.lean ====
section
/-! SUPPORT. One lemma per field per named update of the state: what a later proof needs instead of unfolding the
record update. -/

namespace Sys2Proof.Machine

@[simp] theorem State.enterFault_T (s : State) (c : FCode) : (s.enterFault c).T = s.T := rfl
@[simp] theorem State.enterFault_n (s : State) (c : FCode) : (s.enterFault c).n = s.n := rfl
@[simp] theorem State.enterFault_i (s : State) (c : FCode) : (s.enterFault c).i = s.i := rfl
@[simp] theorem State.enterFault_B (s : State) (c : FCode) : (s.enterFault c).B = s.B := rfl
@[simp] theorem State.enterFault_nb (s : State) (c : FCode) : (s.enterFault c).nb = s.nb := rfl
@[simp] theorem State.enterFault_L (s : State) (c : FCode) : (s.enterFault c).L = s.L := rfl
@[simp] theorem State.enterFault_nblk (s : State) (c : FCode) : (s.enterFault c).nblk = s.nblk := rfl
@[simp] theorem State.enterFault_N (s : State) (c : FCode) : (s.enterFault c).N = s.N := rfl
@[simp] theorem State.enterFault_M (s : State) (c : FCode) : (s.enterFault c).M = s.M := rfl
@[simp] theorem State.enterFault_j (s : State) (c : FCode) : (s.enterFault c).j = s.j := rfl
@[simp] theorem State.enterFault_H (s : State) (c : FCode) : (s.enterFault c).H = s.H := rfl
@[simp] theorem State.enterFault_v (s : State) (c : FCode) : (s.enterFault c).v = s.v := rfl
@[simp] theorem State.enterFault_W (s : State) (c : FCode) : (s.enterFault c).W = s.W := rfl
@[simp] theorem State.enterFault_blk (s : State) (c : FCode) : (s.enterFault c).blk = s.blk := rfl
@[simp] theorem State.enterFault_t (s : State) (c : FCode) : (s.enterFault c).t = s.t := rfl
@[simp] theorem State.enterFault_X (s : State) (c : FCode) : (s.enterFault c).X = s.X := rfl
@[simp] theorem State.enterFault_p (s : State) (c : FCode) : (s.enterFault c).p = s.p := rfl
@[simp] theorem State.enterFault_phase (s : State) (c : FCode) : (s.enterFault c).phase = .fault := rfl
@[simp] theorem State.enterFault_fcode (s : State) (c : FCode) : (s.enterFault c).fcode = c := rfl
@[simp] theorem State.enterFault_agenda (s : State) (c : FCode) : (s.enterFault c).agenda = s.agenda := rfl
@[simp] theorem State.enterFault_response (s : State) (c : FCode) : (s.enterFault c).response = s.response := rfl
@[simp] theorem State.enterFault_reading (s : State) (c : FCode) : (s.enterFault c).reading = s.reading := rfl
@[simp] theorem State.enterFault_draws (s : State) (c : FCode) : (s.enterFault c).draws = s.draws := rfl
@[simp] theorem State.enterFault_maxUnits (s : State) (c : FCode) : (s.enterFault c).maxUnits = s.maxUnits := rfl

@[simp] theorem State.respond_T (s : State) (r : Response) : (s.respond r).T = s.T := rfl
@[simp] theorem State.respond_n (s : State) (r : Response) : (s.respond r).n = s.n := rfl
@[simp] theorem State.respond_i (s : State) (r : Response) : (s.respond r).i = s.i := rfl
@[simp] theorem State.respond_B (s : State) (r : Response) : (s.respond r).B = s.B := rfl
@[simp] theorem State.respond_nb (s : State) (r : Response) : (s.respond r).nb = s.nb := rfl
@[simp] theorem State.respond_L (s : State) (r : Response) : (s.respond r).L = s.L := rfl
@[simp] theorem State.respond_nblk (s : State) (r : Response) : (s.respond r).nblk = s.nblk := rfl
@[simp] theorem State.respond_N (s : State) (r : Response) : (s.respond r).N = s.N := rfl
@[simp] theorem State.respond_M (s : State) (r : Response) : (s.respond r).M = s.M := rfl
@[simp] theorem State.respond_j (s : State) (r : Response) : (s.respond r).j = s.j := rfl
@[simp] theorem State.respond_H (s : State) (r : Response) : (s.respond r).H = s.H := rfl
@[simp] theorem State.respond_v (s : State) (r : Response) : (s.respond r).v = s.v := rfl
@[simp] theorem State.respond_W (s : State) (r : Response) : (s.respond r).W = s.W := rfl
@[simp] theorem State.respond_blk (s : State) (r : Response) : (s.respond r).blk = s.blk := rfl
@[simp] theorem State.respond_t (s : State) (r : Response) : (s.respond r).t = s.t := rfl
@[simp] theorem State.respond_X (s : State) (r : Response) : (s.respond r).X = s.X := rfl
@[simp] theorem State.respond_p (s : State) (r : Response) : (s.respond r).p = s.p := rfl
@[simp] theorem State.respond_phase (s : State) (r : Response) : (s.respond r).phase = s.phase := rfl
@[simp] theorem State.respond_fcode (s : State) (r : Response) : (s.respond r).fcode = s.fcode := rfl
@[simp] theorem State.respond_agenda (s : State) (r : Response) : (s.respond r).agenda = s.agenda := rfl
@[simp] theorem State.respond_response (s : State) (r : Response) : (s.respond r).response = some r := rfl
@[simp] theorem State.respond_reading (s : State) (r : Response) : (s.respond r).reading = s.reading := rfl
@[simp] theorem State.respond_draws (s : State) (r : Response) : (s.respond r).draws = s.draws := rfl
@[simp] theorem State.respond_maxUnits (s : State) (r : Response) : (s.respond r).maxUnits = s.maxUnits := rfl

@[simp] theorem State.note_T (s : State) (r : Reading) : (s.note r).T = s.T := rfl
@[simp] theorem State.note_n (s : State) (r : Reading) : (s.note r).n = s.n := rfl
@[simp] theorem State.note_i (s : State) (r : Reading) : (s.note r).i = s.i := rfl
@[simp] theorem State.note_B (s : State) (r : Reading) : (s.note r).B = s.B := rfl
@[simp] theorem State.note_nb (s : State) (r : Reading) : (s.note r).nb = s.nb := rfl
@[simp] theorem State.note_L (s : State) (r : Reading) : (s.note r).L = s.L := rfl
@[simp] theorem State.note_nblk (s : State) (r : Reading) : (s.note r).nblk = s.nblk := rfl
@[simp] theorem State.note_N (s : State) (r : Reading) : (s.note r).N = s.N := rfl
@[simp] theorem State.note_M (s : State) (r : Reading) : (s.note r).M = s.M := rfl
@[simp] theorem State.note_j (s : State) (r : Reading) : (s.note r).j = s.j := rfl
@[simp] theorem State.note_H (s : State) (r : Reading) : (s.note r).H = s.H := rfl
@[simp] theorem State.note_v (s : State) (r : Reading) : (s.note r).v = s.v := rfl
@[simp] theorem State.note_W (s : State) (r : Reading) : (s.note r).W = s.W := rfl
@[simp] theorem State.note_blk (s : State) (r : Reading) : (s.note r).blk = s.blk := rfl
@[simp] theorem State.note_t (s : State) (r : Reading) : (s.note r).t = s.t := rfl
@[simp] theorem State.note_X (s : State) (r : Reading) : (s.note r).X = s.X := rfl
@[simp] theorem State.note_p (s : State) (r : Reading) : (s.note r).p = s.p := rfl
@[simp] theorem State.note_phase (s : State) (r : Reading) : (s.note r).phase = s.phase := rfl
@[simp] theorem State.note_fcode (s : State) (r : Reading) : (s.note r).fcode = s.fcode := rfl
@[simp] theorem State.note_agenda (s : State) (r : Reading) : (s.note r).agenda = s.agenda := rfl
@[simp] theorem State.note_response (s : State) (r : Reading) : (s.note r).response = s.response := rfl
@[simp] theorem State.note_reading (s : State) (r : Reading) : (s.note r).reading = some r := rfl
@[simp] theorem State.note_draws (s : State) (r : Reading) : (s.note r).draws = s.draws := rfl
@[simp] theorem State.note_maxUnits (s : State) (r : Reading) : (s.note r).maxUnits = s.maxUnits := rfl

@[simp] theorem State.withAgenda_T (s : State) (a : List Turn) : (s.withAgenda a).T = s.T := rfl
@[simp] theorem State.withAgenda_n (s : State) (a : List Turn) : (s.withAgenda a).n = s.n := rfl
@[simp] theorem State.withAgenda_i (s : State) (a : List Turn) : (s.withAgenda a).i = s.i := rfl
@[simp] theorem State.withAgenda_B (s : State) (a : List Turn) : (s.withAgenda a).B = s.B := rfl
@[simp] theorem State.withAgenda_nb (s : State) (a : List Turn) : (s.withAgenda a).nb = s.nb := rfl
@[simp] theorem State.withAgenda_L (s : State) (a : List Turn) : (s.withAgenda a).L = s.L := rfl
@[simp] theorem State.withAgenda_nblk (s : State) (a : List Turn) : (s.withAgenda a).nblk = s.nblk := rfl
@[simp] theorem State.withAgenda_N (s : State) (a : List Turn) : (s.withAgenda a).N = s.N := rfl
@[simp] theorem State.withAgenda_M (s : State) (a : List Turn) : (s.withAgenda a).M = s.M := rfl
@[simp] theorem State.withAgenda_j (s : State) (a : List Turn) : (s.withAgenda a).j = s.j := rfl
@[simp] theorem State.withAgenda_H (s : State) (a : List Turn) : (s.withAgenda a).H = s.H := rfl
@[simp] theorem State.withAgenda_v (s : State) (a : List Turn) : (s.withAgenda a).v = s.v := rfl
@[simp] theorem State.withAgenda_W (s : State) (a : List Turn) : (s.withAgenda a).W = s.W := rfl
@[simp] theorem State.withAgenda_blk (s : State) (a : List Turn) : (s.withAgenda a).blk = s.blk := rfl
@[simp] theorem State.withAgenda_t (s : State) (a : List Turn) : (s.withAgenda a).t = s.t := rfl
@[simp] theorem State.withAgenda_X (s : State) (a : List Turn) : (s.withAgenda a).X = s.X := rfl
@[simp] theorem State.withAgenda_p (s : State) (a : List Turn) : (s.withAgenda a).p = s.p := rfl
@[simp] theorem State.withAgenda_phase (s : State) (a : List Turn) : (s.withAgenda a).phase = s.phase := rfl
@[simp] theorem State.withAgenda_fcode (s : State) (a : List Turn) : (s.withAgenda a).fcode = s.fcode := rfl
@[simp] theorem State.withAgenda_agenda (s : State) (a : List Turn) : (s.withAgenda a).agenda = a := rfl
@[simp] theorem State.withAgenda_response (s : State) (a : List Turn) : (s.withAgenda a).response = s.response := rfl
@[simp] theorem State.withAgenda_reading (s : State) (a : List Turn) : (s.withAgenda a).reading = s.reading := rfl
@[simp] theorem State.withAgenda_draws (s : State) (a : List Turn) : (s.withAgenda a).draws = s.draws := rfl
@[simp] theorem State.withAgenda_maxUnits (s : State) (a : List Turn) : (s.withAgenda a).maxUnits = s.maxUnits := rfl

@[simp] theorem State.latch_T (s : State) (text : List CodeUnit) : (s.latch text).T = Mem.ofListFrom 0 text := rfl
@[simp] theorem State.latch_n (s : State) (text : List CodeUnit) : (s.latch text).n = text.length := rfl
@[simp] theorem State.latch_i (s : State) (text : List CodeUnit) : (s.latch text).i = 0 := rfl
@[simp] theorem State.latch_B (s : State) (text : List CodeUnit) : (s.latch text).B = [] := rfl
@[simp] theorem State.latch_nb (s : State) (text : List CodeUnit) : (s.latch text).nb = 0 := rfl
@[simp] theorem State.latch_L (s : State) (text : List CodeUnit) : (s.latch text).L = s.L := rfl
@[simp] theorem State.latch_nblk (s : State) (text : List CodeUnit) : (s.latch text).nblk = s.nblk := rfl
@[simp] theorem State.latch_N (s : State) (text : List CodeUnit) : (s.latch text).N = s.N := rfl
@[simp] theorem State.latch_M (s : State) (text : List CodeUnit) : (s.latch text).M = s.M := rfl
@[simp] theorem State.latch_j (s : State) (text : List CodeUnit) : (s.latch text).j = s.j := rfl
@[simp] theorem State.latch_H (s : State) (text : List CodeUnit) : (s.latch text).H = s.H := rfl
@[simp] theorem State.latch_v (s : State) (text : List CodeUnit) : (s.latch text).v = s.v := rfl
@[simp] theorem State.latch_W (s : State) (text : List CodeUnit) : (s.latch text).W = s.W := rfl
@[simp] theorem State.latch_blk (s : State) (text : List CodeUnit) : (s.latch text).blk = s.blk := rfl
@[simp] theorem State.latch_t (s : State) (text : List CodeUnit) : (s.latch text).t = s.t := rfl
@[simp] theorem State.latch_X (s : State) (text : List CodeUnit) : (s.latch text).X = s.X := rfl
@[simp] theorem State.latch_p (s : State) (text : List CodeUnit) : (s.latch text).p = s.p := rfl
@[simp] theorem State.latch_phase (s : State) (text : List CodeUnit) : (s.latch text).phase = if text.length = 0 then .size else .enc := rfl
@[simp] theorem State.latch_fcode (s : State) (text : List CodeUnit) : (s.latch text).fcode = .none := rfl
@[simp] theorem State.latch_agenda (s : State) (text : List CodeUnit) : (s.latch text).agenda = s.agenda := rfl
@[simp] theorem State.latch_response (s : State) (text : List CodeUnit) : (s.latch text).response = s.response := rfl
@[simp] theorem State.latch_reading (s : State) (text : List CodeUnit) : (s.latch text).reading = s.reading := rfl
@[simp] theorem State.latch_draws (s : State) (text : List CodeUnit) : (s.latch text).draws = s.draws := rfl
@[simp] theorem State.latch_maxUnits (s : State) (text : List CodeUnit) : (s.latch text).maxUnits = s.maxUnits := rfl

@[simp] theorem State.afterReset_T (s : State) : (s.afterReset).T = Mem.ofCells (Config.freeData s.draws).T := rfl
@[simp] theorem State.afterReset_n (s : State) : (s.afterReset).n = (Config.freeData s.draws).n := rfl
@[simp] theorem State.afterReset_i (s : State) : (s.afterReset).i = (Config.freeData s.draws).i := rfl
@[simp] theorem State.afterReset_B (s : State) : (s.afterReset).B = Mem.ofCells (Config.freeData s.draws).B := rfl
@[simp] theorem State.afterReset_nb (s : State) : (s.afterReset).nb = (Config.freeData s.draws).nb := rfl
@[simp] theorem State.afterReset_L (s : State) : (s.afterReset).L = (Config.freeData s.draws).L := rfl
@[simp] theorem State.afterReset_nblk (s : State) : (s.afterReset).nblk = (Config.freeData s.draws).nblk := rfl
@[simp] theorem State.afterReset_N (s : State) : (s.afterReset).N = (Config.freeData s.draws).N := rfl
@[simp] theorem State.afterReset_M (s : State) : (s.afterReset).M = Mem.ofCells (Config.freeData s.draws).M := rfl
@[simp] theorem State.afterReset_j (s : State) : (s.afterReset).j = (Config.freeData s.draws).j := rfl
@[simp] theorem State.afterReset_H (s : State) : (s.afterReset).H = (Config.freeData s.draws).H := rfl
@[simp] theorem State.afterReset_v (s : State) : (s.afterReset).v = (Config.freeData s.draws).v := rfl
@[simp] theorem State.afterReset_W (s : State) : (s.afterReset).W = (Config.freeData s.draws).W := rfl
@[simp] theorem State.afterReset_blk (s : State) : (s.afterReset).blk = (Config.freeData s.draws).blk := rfl
@[simp] theorem State.afterReset_t (s : State) : (s.afterReset).t = (Config.freeData s.draws).t := rfl
@[simp] theorem State.afterReset_X (s : State) : (s.afterReset).X = (Config.freeData s.draws).X := rfl
@[simp] theorem State.afterReset_p (s : State) : (s.afterReset).p = (Config.freeData s.draws).p := rfl
@[simp] theorem State.afterReset_phase (s : State) : (s.afterReset).phase = .idle := rfl
@[simp] theorem State.afterReset_fcode (s : State) : (s.afterReset).fcode = .none := rfl
@[simp] theorem State.afterReset_agenda (s : State) : (s.afterReset).agenda = s.agenda := rfl
@[simp] theorem State.afterReset_response (s : State) : (s.afterReset).response = s.response := rfl
@[simp] theorem State.afterReset_reading (s : State) : (s.afterReset).reading = s.reading := rfl
@[simp] theorem State.afterReset_draws (s : State) : (s.afterReset).draws = s.draws + 1 := rfl
@[simp] theorem State.afterReset_maxUnits (s : State) : (s.afterReset).maxUnits = s.maxUnits := rfl

@[simp] theorem State.respond_busy (s : State) (r : Response) : (s.respond r).busy = s.busy := rfl
@[simp] theorem State.respond_done (s : State) (r : Response) : (s.respond r).done = s.done := rfl
@[simp] theorem State.respond_faulted (s : State) (r : Response) : (s.respond r).faulted = s.faulted := rfl
@[simp] theorem State.respond_statusByte (s : State) (r : Response) : (s.respond r).statusByte = s.statusByte := rfl
@[simp] theorem State.respond_ready (s : State) (r : Response) : (s.respond r).ready = s.ready := rfl
@[simp] theorem State.note_busy (s : State) (r : Reading) : (s.note r).busy = s.busy := rfl
@[simp] theorem State.note_done (s : State) (r : Reading) : (s.note r).done = s.done := rfl
@[simp] theorem State.note_faulted (s : State) (r : Reading) : (s.note r).faulted = s.faulted := rfl
@[simp] theorem State.note_statusByte (s : State) (r : Reading) : (s.note r).statusByte = s.statusByte := rfl
@[simp] theorem State.note_ready (s : State) (r : Reading) : (s.note r).ready = s.ready := rfl
@[simp] theorem State.withAgenda_busy (s : State) (a : List Turn) : (s.withAgenda a).busy = s.busy := rfl
@[simp] theorem State.withAgenda_done (s : State) (a : List Turn) : (s.withAgenda a).done = s.done := rfl
@[simp] theorem State.withAgenda_faulted (s : State) (a : List Turn) : (s.withAgenda a).faulted = s.faulted := rfl
@[simp] theorem State.withAgenda_statusByte (s : State) (a : List Turn) : (s.withAgenda a).statusByte = s.statusByte := rfl
@[simp] theorem State.withAgenda_ready (s : State) (a : List Turn) : (s.withAgenda a).ready = s.ready := rfl

end Sys2Proof.Machine
end

