-- ==== Sys2Proof/Laws/Ops.lean ====
section
/-! SUPPORT. What each shared operation can do, said once. -/

namespace Sys2Proof.Machine

theorem inRange_of_lt {sp : Space} {k len : Nat} {r : Result} (h : k < len) : inRange sp k len r = r := if_pos h

theorem inRange_of_not_lt {sp : Space} {k len : Nat} {r : Result} (h : ¬ k < len) :
    inRange sp k len r = .fault (.outOfRange sp) := if_neg h

/-- A checked access goes on only inside the space. -/
theorem inRange_eq_next {sp : Space} {k len : Nat} {r : Result} {t : State} :
    inRange sp k len r = .next t ↔ k < len ∧ r = .next t := by
  unfold inRange
  split <;> simp_all

@[simp] theorem raise_eq (c : FCode) (s : State) : raise c s = .next (s.enterFault c) := rfl

/-- Resolving takes one unit or two, and two only where a second one exists (R102). -/
theorem resolve_advance (T : Mem 16) (n i : Nat) :
    (resolve T n i).2 = 1 ∨ ((resolve T n i).2 = 2 ∧ i + 1 < n) := by
  by_cases h : (isHigh (T.read i) && decide (i + 1 < n) && isLow (T.read (i + 1))) = true
  · have h' := h
    simp only [Bool.and_eq_true, decide_eq_true_eq] at h'
    exact .inr ⟨by simp [resolve, h'], h'.1.2⟩
  · exact .inl (by simp only [resolve]; rw [if_neg h])

/-- From inside the text, resolving never passes its end (R102). -/
theorem resolve_advance_le {n i : Nat} (T : Mem 16) (h : i < n) : i + (resolve T n i).2 ≤ n := by
  obtain h1 | ⟨h2, h3⟩ := resolve_advance T n i <;> omega

/-- All that append and advance can do from inside the text (R108). -/
theorem appendAdvance_cases (out : List Byte) {s : State} (h : s.i < s.n) :
    (s.nb + out.length ≤ Config.maxBytes ∧
      appendAdvance out s = .next { s with
        B := s.B.writeList s.nb out, nb := s.nb + out.length, i := s.i + (resolve s.T s.n s.i).2,
        phase := if s.i + (resolve s.T s.n s.i).2 = s.n then .size else .enc }) ∨
    (Config.maxBytes < s.nb + out.length ∧ appendAdvance out s = .next (s.enterFault .lengthOverflow)) := by
  unfold appendAdvance
  rw [inRange_of_lt h]
  by_cases hl : s.nb + out.length > Config.maxBytes
  · rw [if_pos hl]
    exact .inr ⟨hl, rfl⟩
  · rw [if_neg hl]
    exact .inl ⟨by omega, rfl⟩

/-- In the three waiting phases the engine's turn changes nothing (R186). -/
theorem engineTurn_waiting {s : State} (h : s.phase = .idle ∨ s.phase = .done ∨ s.phase = .fault) :
    engineTurn s = .next s := by
  obtain h | h | h := h <;> simp [engineTurn, State.busy, h, Phase.code]

theorem engineTurn_size {s : State} (h : s.phase = .size) : engineTurn s = execPSize s := by
  simp [engineTurn, State.busy, h, selector, Phase.code, runPacket, decode, Format.widths, decodePhase, exec]

theorem engineTurn_pack {s : State} (h : s.phase = .pack) : engineTurn s = execPPack s := by
  simp [engineTurn, State.busy, h, selector, Phase.code, runPacket, decode, Format.widths, decodePhase, exec]

theorem engineTurn_mark {s : State} (h : s.phase = .mark) : engineTurn s = execPMark s := by
  simp [engineTurn, State.busy, h, selector, Phase.code, runPacket, decode, Format.widths, decodePhase, exec]

theorem engineTurn_len {s : State} (h : s.phase = .len) : engineTurn s = execPLen s := by
  simp [engineTurn, State.busy, h, selector, Phase.code, runPacket, decode, Format.widths, decodePhase, exec]

theorem engineTurn_check {s : State} (h : s.phase = .check) : engineTurn s = execPCheck s := by
  simp [engineTurn, State.busy, h, selector, Phase.code, runPacket, decode, Format.widths, decodePhase, exec]

theorem engineTurn_init {s : State} (h : s.phase = .init) : engineTurn s = execCInit s := by
  simp [engineTurn, State.busy, h, selector, Phase.code, runPacket, decode, Format.widths, decodePhase, exec]

theorem engineTurn_load {s : State} (h : s.phase = .load) : engineTurn s = execCLoad s := by
  simp [engineTurn, State.busy, h, selector, Phase.code, runPacket, decode, Format.widths, decodePhase, exec]

theorem engineTurn_expand {s : State} (h : s.phase = .expand) : engineTurn s = execCExpand s := by
  simp [engineTurn, State.busy, h, selector, Phase.code, runPacket, decode, Format.widths, decodePhase, exec]

theorem engineTurn_round {s : State} (h : s.phase = .round) : engineTurn s = execCRound s := by
  simp [engineTurn, State.busy, h, selector, Phase.code, runPacket, decode, Format.widths, decodePhase, exec]

theorem engineTurn_add {s : State} (h : s.phase = .add) : engineTurn s = execCAdd s := by
  simp [engineTurn, State.busy, h, selector, Phase.code, runPacket, decode, Format.widths, decodePhase, exec]

theorem engineTurn_hex {s : State} (h : s.phase = .hex) : engineTurn s = execXNib s := by
  simp [engineTurn, State.busy, h, selector, Phase.code, runPacket, decode, Format.widths, decodePhase, exec]

/-- A step takes the next turn (R12, R180). -/
theorem step_of_agenda_nil {s : State} (h : s.agenda = []) : step s = engineTurn s := by
  simp [step, h]

theorem step_of_engine_turn {s : State} {rest : List Turn} (h : s.agenda = .engine :: rest) :
    step s = engineTurn (s.withAgenda rest) := by
  simp [step, h]

theorem step_of_host_turn {s : State} {p : Packet} {rest : List Turn} (h : s.agenda = .host p :: rest) :
    step s = hostTurn p (s.withAgenda rest) := by
  simp [step, h]

theorem step_of_poll_turn {s : State} {rest : List Turn} (h : s.agenda = .poll :: rest) :
    step s = pollTurn (s.withAgenda rest) := by
  simp [step, h]

end Sys2Proof.Machine
end

