-- ==== Sys2Proof/Laws/PerInstr.lean ====
section
/-! SUPPORT. Facts about each instruction as syntax, one lemma per constructor. Family EncodeWidth: the encoding has a
width of its format and sets no bit above it (R85). -/

namespace Sys2Proof.Laws

/-- The encoded word has one of its format's widths, and no bit above it. -/
def EncodeWidth.Statement (i : Instr) : Prop :=
  (encode i).nbits ∈ (encode i).format.widths ∧ (encode i).word >>> (encode i).nbits = 0#32

theorem EncodeWidth.reset : EncodeWidth.Statement .reset :=
  ⟨by simp [encode, Format.widths], by simp [encode]⟩

theorem EncodeWidth.start (text : List CodeUnit) : EncodeWidth.Statement (.start text) :=
  ⟨by simp [encode, Format.widths], by simp [encode]⟩

theorem EncodeWidth.rdstat : EncodeWidth.Statement .rdstat :=
  ⟨by simp [encode, Format.widths], by simp [encode]⟩

theorem EncodeWidth.rdhex : EncodeWidth.Statement .rdhex :=
  ⟨by simp [encode, Format.widths], by simp [encode]⟩

theorem EncodeWidth.digest (text : List CodeUnit) : EncodeWidth.Statement (.digest text) :=
  ⟨by simp [encode, Format.widths], by simp [encode]⟩

theorem EncodeWidth.uEnc1 (cp : CodePoint) : EncodeWidth.Statement (.uEnc1 cp) :=
  by
  refine ⟨by simp [encode, Format.widths], ?_⟩
  ext k hk
  simp only [encode, BitVec.getElem_ushiftRight, BitVec.getLsbD_or, BitVec.getLsbD_setWidth, BitVec.getElem_zero]
  rw [BitVec.getLsbD_of_ge cp (25 + k) (by omega)]
  have : BitVec.getLsbD 0x0200000#32 (25 + k) = false := by interval_cases k <;> rfl
  simp [this]

theorem EncodeWidth.uEnc2 (cp : CodePoint) : EncodeWidth.Statement (.uEnc2 cp) :=
  by
  refine ⟨by simp [encode, Format.widths], ?_⟩
  ext k hk
  simp only [encode, BitVec.getElem_ushiftRight, BitVec.getLsbD_or, BitVec.getLsbD_setWidth, BitVec.getElem_zero]
  rw [BitVec.getLsbD_of_ge cp (25 + k) (by omega)]
  have : BitVec.getLsbD 0x0200000#32 (25 + k) = false := by interval_cases k <;> rfl
  simp [this]

theorem EncodeWidth.uEnc3 (cp : CodePoint) : EncodeWidth.Statement (.uEnc3 cp) :=
  by
  refine ⟨by simp [encode, Format.widths], ?_⟩
  ext k hk
  simp only [encode, BitVec.getElem_ushiftRight, BitVec.getLsbD_or, BitVec.getLsbD_setWidth, BitVec.getElem_zero]
  rw [BitVec.getLsbD_of_ge cp (25 + k) (by omega)]
  have : BitVec.getLsbD 0x0200000#32 (25 + k) = false := by interval_cases k <;> rfl
  simp [this]

theorem EncodeWidth.uEnc4 (cp : CodePoint) : EncodeWidth.Statement (.uEnc4 cp) :=
  by
  refine ⟨by simp [encode, Format.widths], ?_⟩
  ext k hk
  simp only [encode, BitVec.getElem_ushiftRight, BitVec.getLsbD_or, BitVec.getLsbD_setWidth, BitVec.getElem_zero]
  rw [BitVec.getLsbD_of_ge cp (25 + k) (by omega)]
  have : BitVec.getLsbD 0x0200000#32 (25 + k) = false := by interval_cases k <;> rfl
  simp [this]

theorem EncodeWidth.uDrop (cp : BitVec 22) : EncodeWidth.Statement (.uDrop cp) :=
  by
  refine ⟨by simp [encode, Format.widths], ?_⟩
  ext k hk
  simp only [encode, BitVec.getElem_ushiftRight, BitVec.getLsbD_or, BitVec.getLsbD_setWidth, BitVec.getElem_zero]
  rw [BitVec.getLsbD_of_ge cp (26 + k) (by omega)]
  have : BitVec.getLsbD 0x0400000#32 (26 + k) = false := by interval_cases k <;> rfl
  simp [this]

theorem EncodeWidth.pSize : EncodeWidth.Statement .pSize :=
  ⟨by simp [encode, Format.widths], by simp [encode]⟩

theorem EncodeWidth.pPack : EncodeWidth.Statement .pPack :=
  ⟨by simp [encode, Format.widths], by simp [encode]⟩

theorem EncodeWidth.pMark : EncodeWidth.Statement .pMark :=
  ⟨by simp [encode, Format.widths], by simp [encode]⟩

theorem EncodeWidth.pLen : EncodeWidth.Statement .pLen :=
  ⟨by simp [encode, Format.widths], by simp [encode]⟩

theorem EncodeWidth.pCheck : EncodeWidth.Statement .pCheck :=
  ⟨by simp [encode, Format.widths], by simp [encode]⟩

theorem EncodeWidth.cInit : EncodeWidth.Statement .cInit :=
  ⟨by simp [encode, Format.widths], by simp [encode]⟩

theorem EncodeWidth.cLoad : EncodeWidth.Statement .cLoad :=
  ⟨by simp [encode, Format.widths], by simp [encode]⟩

theorem EncodeWidth.cExpand : EncodeWidth.Statement .cExpand :=
  ⟨by simp [encode, Format.widths], by simp [encode]⟩

theorem EncodeWidth.cRound : EncodeWidth.Statement .cRound :=
  ⟨by simp [encode, Format.widths], by simp [encode]⟩

theorem EncodeWidth.cAdd : EncodeWidth.Statement .cAdd :=
  ⟨by simp [encode, Format.widths], by simp [encode]⟩

theorem EncodeWidth.xNib : EncodeWidth.Statement .xNib :=
  ⟨by simp [encode, Format.widths], by simp [encode]⟩

theorem EncodeWidth.utf8Form1 (c : BitVec 7) : EncodeWidth.Statement (.utf8Form1 c) :=
  by
  refine ⟨by simp [encode, Format.widths], ?_⟩
  ext k hk
  simp only [encode, BitVec.getElem_ushiftRight, BitVec.getLsbD_setWidth, BitVec.getElem_zero]
  rw [BitVec.getLsbD_of_ge _ (8 + k) (by omega), Bool.and_false]

theorem EncodeWidth.utf8Form2 (c : BitVec 11) : EncodeWidth.Statement (.utf8Form2 c) :=
  by
  refine ⟨by simp [encode, Format.widths], ?_⟩
  ext k hk
  simp only [encode, BitVec.getElem_ushiftRight, BitVec.getLsbD_setWidth, BitVec.getElem_zero]
  rw [BitVec.getLsbD_of_ge _ (16 + k) (by omega), Bool.and_false]

theorem EncodeWidth.utf8Form3 (c : BitVec 16) : EncodeWidth.Statement (.utf8Form3 c) :=
  by
  refine ⟨by simp [encode, Format.widths], ?_⟩
  ext k hk
  simp only [encode, BitVec.getElem_ushiftRight, BitVec.getLsbD_setWidth, BitVec.getElem_zero]
  rw [BitVec.getLsbD_of_ge _ (24 + k) (by omega), Bool.and_false]

theorem EncodeWidth.utf8Form4 (c : BitVec 21) : EncodeWidth.Statement (.utf8Form4 c) :=
  by
  refine ⟨by simp [encode, Format.widths], ?_⟩
  ext k hk
  simp only [encode, BitVec.getElem_ushiftRight, BitVec.getLsbD_setWidth, BitVec.getElem_zero]
  rw [BitVec.getLsbD_of_ge _ (32 + k) (by omega), Bool.and_false]

theorem EncodeWidth.hexChar0 : EncodeWidth.Statement .hexChar0 :=
  ⟨by simp [encode, Format.widths], by simp [encode]⟩

theorem EncodeWidth.hexChar1 : EncodeWidth.Statement .hexChar1 :=
  ⟨by simp [encode, Format.widths], by simp [encode]⟩

theorem EncodeWidth.hexChar2 : EncodeWidth.Statement .hexChar2 :=
  ⟨by simp [encode, Format.widths], by simp [encode]⟩

theorem EncodeWidth.hexChar3 : EncodeWidth.Statement .hexChar3 :=
  ⟨by simp [encode, Format.widths], by simp [encode]⟩

theorem EncodeWidth.hexChar4 : EncodeWidth.Statement .hexChar4 :=
  ⟨by simp [encode, Format.widths], by simp [encode]⟩

theorem EncodeWidth.hexChar5 : EncodeWidth.Statement .hexChar5 :=
  ⟨by simp [encode, Format.widths], by simp [encode]⟩

theorem EncodeWidth.hexChar6 : EncodeWidth.Statement .hexChar6 :=
  ⟨by simp [encode, Format.widths], by simp [encode]⟩

theorem EncodeWidth.hexChar7 : EncodeWidth.Statement .hexChar7 :=
  ⟨by simp [encode, Format.widths], by simp [encode]⟩

theorem EncodeWidth.hexChar8 : EncodeWidth.Statement .hexChar8 :=
  ⟨by simp [encode, Format.widths], by simp [encode]⟩

theorem EncodeWidth.hexChar9 : EncodeWidth.Statement .hexChar9 :=
  ⟨by simp [encode, Format.widths], by simp [encode]⟩

theorem EncodeWidth.hexCharA : EncodeWidth.Statement .hexCharA :=
  ⟨by simp [encode, Format.widths], by simp [encode]⟩

theorem EncodeWidth.hexCharB : EncodeWidth.Statement .hexCharB :=
  ⟨by simp [encode, Format.widths], by simp [encode]⟩

theorem EncodeWidth.hexCharC : EncodeWidth.Statement .hexCharC :=
  ⟨by simp [encode, Format.widths], by simp [encode]⟩

theorem EncodeWidth.hexCharD : EncodeWidth.Statement .hexCharD :=
  ⟨by simp [encode, Format.widths], by simp [encode]⟩

theorem EncodeWidth.hexCharE : EncodeWidth.Statement .hexCharE :=
  ⟨by simp [encode, Format.widths], by simp [encode]⟩

theorem EncodeWidth.hexCharF : EncodeWidth.Statement .hexCharF :=
  ⟨by simp [encode, Format.widths], by simp [encode]⟩

theorem EncodeWidth.status (done busy : Bool) (fcode : BitVec 2) (phase : BitVec 4) : EncodeWidth.Statement (.status done busy fcode phase) :=
  by
  refine ⟨by simp [encode, Format.widths], ?_⟩
  ext k hk
  simp only [encode, BitVec.getElem_ushiftRight, BitVec.getLsbD_setWidth, BitVec.getElem_zero]
  rw [BitVec.getLsbD_of_ge _ (8 + k) (by omega), Bool.and_false]

end Sys2Proof.Laws
end

