-- ==== Sys2Proof/Tests/Slice0.lean ====
section
/-! SUPPORT. The model's own tests: ill-formed terms, one word per row of the operation table, single steps with the
values spec/95_test_vectors.md gives, and for each statement with hypotheses a state that meets them. -/

open Sys2Proof Sys2Proof.Machine Sys2Proof.Claims

namespace Sys2Proof.Tests

/-- The next state, where there is one. -/
def nextOf (r : Result) : Option State :=
  match r with
  | .next s => some s
  | .fault _ => none
  | .refused _ => none

/-! ### WellFormed refuses each kind of ill-formed term -/

theorem test_uEnc1_above_threshold : (Instr.uEnc1 0x80#21).wellFormed = false := by decide
theorem test_uEnc2_below_range : (Instr.uEnc2 0x7F#21).wellFormed = false := by decide
theorem test_uEnc2_above_range : (Instr.uEnc2 0x800#21).wellFormed = false := by decide
theorem test_uEnc3_below_range : (Instr.uEnc3 0x7FF#21).wellFormed = false := by decide
theorem test_uEnc3_above_range : (Instr.uEnc3 0x10000#21).wellFormed = false := by decide
theorem test_uEnc4_below_range : (Instr.uEnc4 0xFFFF#21).wellFormed = false := by decide
theorem test_uDrop_within_21_bits : (Instr.uDrop 0x1FFFFF#22).wellFormed = false := by decide
theorem test_utf8Form2_overlong : (Instr.utf8Form2 0x7F#11).wellFormed = false := by decide
theorem test_utf8Form3_overlong : (Instr.utf8Form3 0x7FF#16).wellFormed = false := by decide
theorem test_utf8Form4_overlong : (Instr.utf8Form4 0xFFFF#21).wellFormed = false := by decide
theorem test_status_reserved_phase : (Instr.status false false 0#2 0xF#4).wellFormed = false := by decide
theorem test_status_reserved_fault : (Instr.status false false 3#2 0xE#4).wellFormed = false := by decide
theorem test_status_wrong_done : (Instr.status true false 0#2 0xC#4).wellFormed = false := by decide
theorem test_status_wrong_busy : (Instr.status false false 0#2 0x4#4).wellFormed = false := by decide
theorem test_status_fault_without_code : (Instr.status false false 0#2 0xE#4).wellFormed = false := by decide

/-! ### One word per row, written out from the pattern of spec/opcode_table.json -/

theorem test_decode_reset :
    decode { format := .H, nbits := 2, word := 0b00#32 } = .instr (.reset) := by decide
theorem test_decode_start :
    decode { format := .H, nbits := 2, word := 0b01#32, text := [0x61#16] } = .instr (.start [0x61#16]) := by decide
theorem test_decode_rdstat :
    decode { format := .H, nbits := 2, word := 0b10#32 } = .instr (.rdstat) := by decide
theorem test_decode_rdhex :
    decode { format := .H, nbits := 2, word := 0b11#32 } = .instr (.rdhex) := by decide
theorem test_decode_digest :
    decode { format := .pseudo, nbits := 0, word := 0#32, text := [0x61#16] } = .instr (.digest [0x61#16]) := by decide
theorem test_decode_uEnc1 :
    decode { format := .phaseCp, nbits := 25, word := 0b0001000000000000001100001#32 } = .instr (.uEnc1 0x61#21) := by decide
theorem test_decode_uEnc2 :
    decode { format := .phaseCp, nbits := 25, word := 0b0001000000000000011101001#32 } = .instr (.uEnc2 0xE9#21) := by decide
theorem test_decode_uEnc3 :
    decode { format := .phaseCp, nbits := 25, word := 0b0001000000010000010101100#32 } = .instr (.uEnc3 0x20AC#21) := by decide
theorem test_decode_uEnc4 :
    decode { format := .phaseCp, nbits := 25, word := 0b0001000011111011000000000#32 } = .instr (.uEnc4 0x1F600#21) := by decide
theorem test_decode_uDrop :
    decode { format := .phaseCp22, nbits := 26, word := 0b00011000000000000000000000#32 } = .instr (.uDrop 0x200000#22) := by decide
theorem test_decode_pSize :
    decode { format := .phase, nbits := 4, word := 0b0010#32 } = .instr (.pSize) := by decide
theorem test_decode_pPack :
    decode { format := .phase, nbits := 4, word := 0b0011#32 } = .instr (.pPack) := by decide
theorem test_decode_pMark :
    decode { format := .phase, nbits := 4, word := 0b0100#32 } = .instr (.pMark) := by decide
theorem test_decode_pLen :
    decode { format := .phase, nbits := 4, word := 0b0101#32 } = .instr (.pLen) := by decide
theorem test_decode_pCheck :
    decode { format := .phase, nbits := 4, word := 0b0110#32 } = .instr (.pCheck) := by decide
theorem test_decode_cInit :
    decode { format := .phase, nbits := 4, word := 0b0111#32 } = .instr (.cInit) := by decide
theorem test_decode_cLoad :
    decode { format := .phase, nbits := 4, word := 0b1000#32 } = .instr (.cLoad) := by decide
theorem test_decode_cExpand :
    decode { format := .phase, nbits := 4, word := 0b1001#32 } = .instr (.cExpand) := by decide
theorem test_decode_cRound :
    decode { format := .phase, nbits := 4, word := 0b1010#32 } = .instr (.cRound) := by decide
theorem test_decode_cAdd :
    decode { format := .phase, nbits := 4, word := 0b1011#32 } = .instr (.cAdd) := by decide
theorem test_decode_xNib :
    decode { format := .phase, nbits := 4, word := 0b1100#32 } = .instr (.xNib) := by decide
theorem test_decode_utf8Form1 :
    decode { format := .utf8, nbits := 8, word := 0b01000001#32 } = .instr (.utf8Form1 0x41#7) := by decide
theorem test_decode_utf8Form2 :
    decode { format := .utf8, nbits := 16, word := 0b1101111110111111#32 } = .instr (.utf8Form2 0x7FF#11) := by decide
theorem test_decode_utf8Form3 :
    decode { format := .utf8, nbits := 24, word := 0b111011011010000010000000#32 } = .instr (.utf8Form3 0xD800#16) := by decide
theorem test_decode_utf8Form4 :
    decode { format := .utf8, nbits := 32, word := 0b11110100100011111011111110111111#32 } = .instr (.utf8Form4 0x10FFFF#21) := by decide
theorem test_decode_hexChar0 :
    decode { format := .hexChar, nbits := 8, word := 0b00110000#32 } = .instr (.hexChar0) := by decide
theorem test_decode_hexChar1 :
    decode { format := .hexChar, nbits := 8, word := 0b00110001#32 } = .instr (.hexChar1) := by decide
theorem test_decode_hexChar2 :
    decode { format := .hexChar, nbits := 8, word := 0b00110010#32 } = .instr (.hexChar2) := by decide
theorem test_decode_hexChar3 :
    decode { format := .hexChar, nbits := 8, word := 0b00110011#32 } = .instr (.hexChar3) := by decide
theorem test_decode_hexChar4 :
    decode { format := .hexChar, nbits := 8, word := 0b00110100#32 } = .instr (.hexChar4) := by decide
theorem test_decode_hexChar5 :
    decode { format := .hexChar, nbits := 8, word := 0b00110101#32 } = .instr (.hexChar5) := by decide
theorem test_decode_hexChar6 :
    decode { format := .hexChar, nbits := 8, word := 0b00110110#32 } = .instr (.hexChar6) := by decide
theorem test_decode_hexChar7 :
    decode { format := .hexChar, nbits := 8, word := 0b00110111#32 } = .instr (.hexChar7) := by decide
theorem test_decode_hexChar8 :
    decode { format := .hexChar, nbits := 8, word := 0b00111000#32 } = .instr (.hexChar8) := by decide
theorem test_decode_hexChar9 :
    decode { format := .hexChar, nbits := 8, word := 0b00111001#32 } = .instr (.hexChar9) := by decide
theorem test_decode_hexCharA :
    decode { format := .hexChar, nbits := 8, word := 0b01100001#32 } = .instr (.hexCharA) := by decide
theorem test_decode_hexCharB :
    decode { format := .hexChar, nbits := 8, word := 0b01100010#32 } = .instr (.hexCharB) := by decide
theorem test_decode_hexCharC :
    decode { format := .hexChar, nbits := 8, word := 0b01100011#32 } = .instr (.hexCharC) := by decide
theorem test_decode_hexCharD :
    decode { format := .hexChar, nbits := 8, word := 0b01100100#32 } = .instr (.hexCharD) := by decide
theorem test_decode_hexCharE :
    decode { format := .hexChar, nbits := 8, word := 0b01100101#32 } = .instr (.hexCharE) := by decide
theorem test_decode_hexCharF :
    decode { format := .hexChar, nbits := 8, word := 0b01100110#32 } = .instr (.hexCharF) := by decide
theorem test_decode_status :
    decode { format := .status, nbits := 8, word := 0b10001101#32 } = .instr (.status true false 0#2 0xD#4) := by decide

/-! The decoder's rejections, each by name. -/

theorem test_reject_width :
    decode { format := .H, nbits := 3, word := 0#32 } = .rejected .wrongWidth := by decide
theorem test_reject_high_bits :
    decode { format := .H, nbits := 2, word := 4#32 } = .rejected .bitsAboveWidth := by decide
theorem test_reject_operand :
    decode { format := .H, nbits := 2, word := 2#32, text := [0#16] } = .rejected .strayOperand := by decide
theorem test_reject_idle :
    decode { format := .phase, nbits := 4, word := 0x0#32 } = .rejected .noOperation := by decide
theorem test_reject_reserved_phase :
    decode { format := .phase, nbits := 4, word := 0xF#32 } = .rejected .reservedPhase := by decide
theorem test_reject_enc_alone :
    decode { format := .phase, nbits := 4, word := 0x1#32 } = .rejected .needsCodePoint := by decide
theorem test_reject_other_phase_with_code_point :
    decode { format := .phaseCp, nbits := 25, word := 0x0400000#32 } = .rejected .notEncoderSelector := by decide
theorem test_reject_continuation_byte :
    decode { format := .utf8, nbits := 8, word := 0x80#32 } = .rejected .notUtf8Form := by decide
theorem test_reject_upper_case :
    decode { format := .hexChar, nbits := 8, word := 0x41#32 } = .rejected .notHexChar := by decide
theorem test_reject_fault_code_3 :
    decode { format := .status, nbits := 8, word := 0x3E#32 } = .rejected .reservedFaultCode := by decide
theorem test_reject_status_0x80 :
    decode { format := .status, nbits := 8, word := 0x80#32 } = .rejected .unreadableStatus := by decide

/-! ### Single steps -/

/-- In phase ENC before the only item of a text. -/
def encoding (units : List CodeUnit) (nb : Nat) : State :=
  { State.reset with T := Mem.ofListFrom 0 units, n := units.length, nb := nb, phase := .enc }

/-- R220: `RESET` after a fault (P5). -/
theorem test_reset_clears_fault :
    (nextOf (exec .reset (State.reset.enterFault .lengthOverflow))).map (fun t => (t.phase, t.fcode)) =
      some (.idle, .none) := by decide

/-- R182's example. -/
theorem test_start_abc :
    (nextOf (exec (.start [0x61#16, 0x62#16, 0x63#16]) State.reset)).map (fun t => (t.T, t.n, t.phase)) =
      some ([(0, 0x61#16), (1, 0x62#16), (2, 0x63#16)], 3, .enc) := by decide

/-- V31. -/
theorem test_start_while_busy_ignored :
    nextOf (exec (.start [0x78#16]) { State.reset with phase := .round, t := 10 }) =
      some { State.reset with phase := .round, t := 10 } := by decide

/-- V30, phase ROUND. -/
theorem test_rdstat_round :
    (nextOf (exec .rdstat { State.reset with phase := .round })).map (·.response) =
      some (some (.status 0x4A#8)) := by decide

/-- V30, after `LengthOverflow`. -/
theorem test_rdstat_fault :
    (nextOf (exec .rdstat (State.reset.enterFault .lengthOverflow))).map (·.response) =
      some (some (.status 0x1E#8)) := by decide

/-- R184 in DONE. -/
theorem test_rdhex_done :
    (nextOf (exec .rdhex { State.reset with phase := .done, X := Vector.replicate 64 0x61#8 })).map (·.response) =
      some (some (.hex (Vector.replicate 64 0x61#8))) := by decide +kernel

/-- R184 outside DONE: the read completes and its values are drawn. -/
theorem test_rdhex_idle : (nextOf (exec .rdhex State.reset)).map (·.draws) = some 1 := by decide

/-- R185's expansion. -/
theorem test_digest_expansion :
    (nextOf (exec (.digest [0x61#16]) State.reset)).map (·.agenda) =
      some [.host { format := .H, nbits := 2, word := 1#32, text := [0x61#16] }, .poll] := by decide

/-- V2: `a` is one byte, and the text is at its end. -/
theorem test_uEnc1_a :
    (nextOf (exec (.uEnc1 0x61#21) (encoding [0x61#16] 0))).map (fun t => (t.B, t.nb, t.i, t.phase)) =
      some ([(0, 0x61#8)], 1, 1, .size) := by decide

/-- V33: one byte past the limit. -/
theorem test_uEnc1_limit :
    (nextOf (exec (.uEnc1 0x61#21) (encoding [0x61#16] 0x1FFFFFFF))).map
        (fun t => (t.B, t.nb, t.i, t.phase, t.fcode)) =
      some ([], 0x1FFFFFFF, 0, .fault, .lengthOverflow) := by decide

/-- V20: U+00E9. -/
theorem test_uEnc2_e_acute :
    (nextOf (exec (.uEnc2 0xE9#21) (encoding [0xE9#16] 0))).map (fun t => (t.B, t.nb)) =
      some ([(0, 0xC3#8), (1, 0xA9#8)], 2) := by decide

/-- V20: U+07FF. -/
theorem test_uEnc2_last :
    (nextOf (exec (.uEnc2 0x7FF#21) (encoding [0x7FF#16] 0))).map (·.B) =
      some [(0, 0xDF#8), (1, 0xBF#8)] := by decide

/-- V20: U+20AC. -/
theorem test_uEnc3_euro :
    (nextOf (exec (.uEnc3 0x20AC#21) (encoding [0x20AC#16] 0))).map (·.B) =
      some [(0, 0xE2#8), (1, 0x82#8), (2, 0xAC#8)] := by decide

/-- V25: an unpaired high surrogate, the next unit left for the next step. -/
theorem test_uEnc3_unpaired :
    (nextOf (step (encoding [0xD83D#16, 0x41#16] 0))).map (fun t => (t.B, t.i, t.phase)) =
      some ([(0, 0xED#8), (1, 0xA0#8), (2, 0xBD#8)], 1, .enc) := by decide

/-- V23: the pair D83D DE00 through the engine's own selector. -/
theorem test_uEnc4_pair :
    (nextOf (step (encoding [0xD83D#16, 0xDE00#16] 0))).map (fun t => (t.B, t.nb, t.i, t.phase)) =
      some ([(0, 0xF0#8), (1, 0x9F#8), (2, 0x98#8), (3, 0x80#8)], 4, 2, .size) := by decide

/-- V33: four bytes at 0x1FFFFFFC fault. -/
theorem test_uEnc4_limit :
    (nextOf (exec (.uEnc4 0x1F600#21) (encoding [0xD83D#16, 0xDE00#16] 0x1FFFFFFC))).map
        (fun t => (t.nb, t.i, t.phase)) = some (0x1FFFFFFC, 0, .fault) := by decide

/-- V26. -/
theorem test_uDrop :
    (nextOf (exec (.uDrop 0x200000#22) { State.reset with phase := .enc, nb := 5, i := 2, n := 4 })).map
        (fun t => (t.B, t.nb, t.i, t.phase, t.fcode)) = some ([], 5, 3, .enc, .none) := by decide

/-- R122's example. -/
theorem test_pSize_abc :
    (nextOf (exec .pSize { State.reset with nb := 3, phase := .size })).map
        (fun t => (t.L, t.nblk, t.N, t.phase)) = some (0x18#32, 1, 16, .pack) := by decide

/-- V33: the largest admitted message. -/
theorem test_pSize_largest :
    (nextOf (exec .pSize { State.reset with nb := 0x1FFFFFFF, phase := .size })).map
        (fun t => (t.L, t.nblk, t.N)) = some (0xFFFFFFF8#32, 8388609, 134217744) := by decide

/-- V2: the third byte of `abc`. -/
theorem test_pPack_third :
    (nextOf (exec .pPack { State.reset with
        B := [(0, 0x61#8), (1, 0x62#8), (2, 0x63#8)], nb := 3, j := 2, N := 16, M := [(0, 0x61620000#32)] })).map
        (fun t => (t.M, t.j, t.phase)) = some ([(0, 0x61626300#32)], 3, .mark) := by decide

/-- V2: the marker after `abc`. -/
theorem test_pMark_abc :
    (nextOf (exec .pMark { State.reset with nb := 3, N := 16, M := [(0, 0x61626300#32)] })).map
        (fun t => (t.M, t.phase)) = some ([(0, 0x61626380#32)], .len) := by decide

/-- V15: for four bytes the marker opens a fresh word. -/
theorem test_pMark_fresh_word :
    (nextOf (exec .pMark { State.reset with nb := 4, N := 16, M := [(0, 0x61616161#32)] })).map (·.M) =
      some [(0, 0x61616161#32), (1, 0x80000000#32)] := by decide

/-- V9: the length word of 56 bytes. -/
theorem test_pLen_56 :
    (nextOf (exec .pLen { State.reset with L := 0x1C0#32, N := 32 })).map (fun t => (t.M, t.phase)) =
      some ([(31, 0x1C0#32)], .check) := by decide

/-- V34. -/
theorem test_pCheck_17 :
    (nextOf (exec .pCheck { State.reset with N := 17, phase := .check })).map (·.statusByte) =
      some 0x2E#8 := by decide

/-- V34. -/
theorem test_pCheck_48 :
    (nextOf (exec .pCheck { State.reset with N := 48, phase := .check })).map (·.phase) = some .init := by decide

/-- R150's example. -/
theorem test_cInit : (nextOf (exec .cInit State.reset)).map (fun t => (t.H[0], t.blk, t.phase)) =
    some (0x6A09E667#32, 0, .load) := by decide

/-- R151's example. -/
theorem test_cLoad_abc :
    (nextOf (exec .cLoad { State.reset with
        M := [(0, 0x61626380#32), (15, 0x18#32)], N := 16, H := IV })).map
        (fun t => (t.W[0], t.W[15], t.v[0], t.t)) = some (0x61626380#32, 0x18#32, 0x6A09E667#32, 16) := by decide

/-- R152's example: `W[17]` of `abc`. -/
theorem test_cExpand_17 :
    (nextOf (exec .cExpand { State.reset with t := 17, W := (Vector.replicate 64 0#32).set 15 0x18#32 })).map
        (fun t => (t.W[17], t.t)) = some (0x000F0000#32, 18) := by decide

/-- V1: `W[18]` of the empty text, where the shift must be logical. -/
theorem test_cExpand_logical_shift :
    (nextOf (exec .cExpand { State.reset with t := 18, W := (Vector.replicate 64 0#32).set 16 0x80000000#32 })).map
        (fun t => t.W[18]) = some 0x00205000#32 := by decide

/-- V2: round 0 of `abc`. -/
theorem test_cRound_abc_0 :
    (nextOf (exec .cRound { State.reset with v := IV, W := (Vector.replicate 64 0#32).set 0 0x61626380#32 })).map
        (fun t => (t.v[0], t.v[1], t.v[4], t.v[7], t.t)) =
      some (0x5D6AEBCD#32, 0x6A09E667#32, 0xFA2A4622#32, 0x1F83D9AB#32, 1) := by decide +kernel

/-- V1: round 63 of the empty text. -/
theorem test_cRound_empty_63 :
    (nextOf (exec .cRound { State.reset with
        t := 63, W := (Vector.replicate 64 0#32).set 63 0x3B5EC49B#32,
        v := #v[0xDD946D8F#32, 0x5E8D0156#32, 0xF41FC3EA#32, 0x04441C0E#32, 0xC9962AC0#32, 0x8511BF70#32,
          0x1C71EB3C#32, 0xAAEFA044#32] })).map (fun t => (t.v[0], t.v[4], t.t, t.phase)) =
      some (0x79A6DDDB#32, 0xD69FEF65#32, 63, .add) := by decide +kernel

/-- V28: a carry out of bit 31 is dropped. -/
theorem test_cAdd_wraps :
    (nextOf (exec .cAdd { State.reset with
        nblk := 1, H := IV, v := (Vector.replicate 8 0#32).set 1 0xD39A2165#32 })).map
        (fun t => (t.H[0], t.H[1], t.phase)) = some (0x6A09E667#32, 0x8F01CFEA#32, .hex) := by decide +kernel

/-- V16: after the first of two blocks the engine loads the next. -/
theorem test_cAdd_next_block :
    (nextOf (exec .cAdd { State.reset with nblk := 2 })).map (fun t => (t.blk, t.phase)) =
      some (1, .load) := by decide

/-- V29: `nib(H, 9)` of 89abcdef. -/
theorem test_xNib_9 :
    (nextOf (exec .xNib { State.reset with p := 9, H := (Vector.replicate 8 0#32).set 1 0x89ABCDEF#32 })).map
        (fun t => (t.X[9], t.p, t.phase)) = some (0x39#8, 10, .hex) := by decide

/-- R172: the last character, a letter. -/
theorem test_xNib_last :
    (nextOf (exec .xNib { State.reset with p := 63, H := (Vector.replicate 8 0#32).set 7 0xF20015AD#32 })).map
        (fun t => (t.X[63], t.p, t.phase)) = some (0x64#8, 63, .done) := by decide

/-- V20: the bytes of U+0800 read back. -/
theorem test_utf8Form3_reading :
    (nextOf (exec (.utf8Form3 0x800#16) State.reset)).map (·.reading) =
      some (some (.codePoint 0x800#21 [0xE0#8, 0xA0#8, 0x80#8])) := by decide

/-- V24: the bytes of U+10FFFF read back. -/
theorem test_utf8Form4_reading :
    (nextOf (exec (.utf8Form4 0x10FFFF#21) State.reset)).map (·.reading) =
      some (some (.codePoint 0x10FFFF#21 [0xF4#8, 0x8F#8, 0xBF#8, 0xBF#8])) := by decide

/-- R82: the character `e`. -/
theorem test_hexCharE_reading :
    (nextOf (exec .hexCharE State.reset)).map (·.reading) = some (some (.digit 0xE#4 0x65#8)) := by decide

/-- U9: a text buffer of one unit refuses two. -/
theorem test_start_too_long :
    nextOf (exec (.start [0x61#16, 0x62#16]) { State.reset with maxUnits := some 1 }) = none := by decide

/-- R39: the host cannot hand the engine a selector of its own. -/
theorem test_host_cannot_select :
    nextOf (step { State.reset with agenda := [.host { format := .phase, nbits := 4, word := 7#32 }] }) = none := by
  decide

/-! ### Constants, functions, and the printed known answer -/

/-- The first 64 primes (R142: 2 to 311). -/
def primes : List Nat :=
  [2, 3, 5, 7, 11, 13, 17, 19, 23, 29, 31, 37, 41, 43, 47, 53, 59, 61, 67, 71, 73, 79, 83, 89, 97, 101, 103, 107, 109,
    113, 127, 131] ++
  [137, 139, 149, 151, 157, 163, 167, 173, 179, 181, 191, 193, 197, 199, 211, 223, 227, 229, 233, 239, 241, 251, 257,
    263, 269, 271, 277, 281, 283, 293, 307, 311]

/-- R141: 32 bits after the point of each square root; the integer part is the one that fits. -/
theorem test_IV_square_roots : (List.range 8).all (fun k =>
    (List.range 5).any fun whole =>
      let x := whole * 2 ^ 32 + (IV[k]?.getD 0#32).toNat
      decide (x ^ 2 ≤ primes.getD k 0 * 2 ^ 64 ∧ primes.getD k 0 * 2 ^ 64 < (x + 1) ^ 2)) = true := by decide +kernel

/-- R142: 32 bits after the point of each cube root. -/
theorem test_K_cube_roots : (List.range 64).all (fun k =>
    (List.range 7).any fun whole =>
      let x := whole * 2 ^ 32 + (K[k]?.getD 0#32).toNat
      decide (x ^ 3 ≤ primes.getD k 0 * 2 ^ 96 ∧ primes.getD k 0 * 2 ^ 96 < (x + 1) ^ 3)) = true := by decide +kernel

/-- V27. -/
theorem test_choose_majority :
    ch 0x510E527F#32 0x9B05688C#32 0x1F83D9AB#32 = 0x1F85C98C#32 ∧
    maj 0x6A09E667#32 0xBB67AE85#32 0x3C6EF372#32 = 0x3A6FE667#32 := by decide

/-- V27. -/
theorem test_mixing :
    bigSigma0 0x6A09E667#32 = 0xCE20B47E#32 ∧ bigSigma1 0x510E527F#32 = 0x3587272B#32 ∧
    smallSigma0 0x80000000#32 = 0x11002000#32 ∧ smallSigma0 0xFFFFFFFF#32 = 0x1FFFFFFF#32 ∧
    smallSigma1 0x18#32 = 0x000F0000#32 ∧ smallSigma1 0xFFFFFFFF#32 = 0x003FFFFF#32 := by decide

/-- V1: the one digest the source prints, at the functional level. -/
theorem test_digest_of_empty_text :
    (digestHex []).toList.map BitVec.toNat =
      ("e3b0c44298fc1c149afbf4c8996fb92427ae41e4649b934ca495991b7852b855".toList.map Char.toNat) := by decide +kernel

/-- R120: the bit length of three bytes is 24, beside the sixteen words of one block, the last of them that length. -/
theorem test_packBlocks_abc :
    (packBlocks [0x61#8, 0x62#8, 0x63#8]).bitLength = 24#64 ∧
      (packBlocks [0x61#8, 0x62#8, 0x63#8]).words = 0x61626380#32 :: List.replicate 14 0#32 ++ [0x18#32] := by decide

/-- V2. -/
theorem test_digest_of_abc :
    (digestHex [0x61#16, 0x62#16, 0x63#16]).toList.map BitVec.toNat =
      ("ba7816bf8f01cfea414140de5dae2223b00361a396177a9cb410ff61f20015ad".toList.map Char.toNat) := by decide +kernel

/-! ### Bare table words through the host's entry -/

/-- Each bare word is placed where the next step takes it, and the step completes. -/
theorem test_fetch_words_complete :
    ([(8, 1), (8, 4), (8, 5), (8, 6), (8, 7), (8, 8), (8, 9), (8, 10), (8, 11), (8, 12), (4, 2), (4, 3), (8, 0x30),
        (8, 0x66), (16, 0xC080), (24, 0xE08080), (32, 0xF0808080), (32, 0x0200000), (32, 0x021F600)] :
        List (Nat × Nat)).all
      (fun x => (nextOf (step (State.reset.withFetchWord x.1 x.2))).isSome) = true := by decide +kernel

/-- `P.PACK` as the first instruction after reset. -/
theorem test_fetch_pPack :
    (nextOf (step (State.reset.withFetchWord 4 3))).map (fun t => (t.j, t.phase)) = some (1, .mark) := by decide

/-! ### Witnesses: states and operands that meet the hypotheses of each statement -/

/-- A busy state at a sized message of `nb` bytes in phase `ph`. -/
def sizedAt (ph : Phase) (nb : Nat) : State :=
  { State.reset with
    n := nb, i := nb, nb := nb, L := BitVec.ofNat 32 (8 * nb), nblk := blocksFor nb, N := 16 * blocksFor nb,
    j := nb, t := 16, phase := ph }

/-- A state in which the host is about to issue `START text`. -/
def startState (text : List CodeUnit) : State := { State.reset with agenda := [.host (encode (.start text))] }

theorem witness_DecodeEncodeAgree :
    ([.uEnc1 0x7F#21, .uEnc2 0x80#21, .uEnc2 0x7FF#21, .uEnc3 0x800#21, .uEnc3 0xFFFF#21, .uEnc4 0x10000#21,
        .uEnc4 0x1FFFFF#21, .uDrop 0x200000#22, .utf8Form2 0x80#11, .utf8Form3 0x800#16, .utf8Form4 0x10000#21,
        .status false true 0#2 0xC#4, .status false false 2#2 0xE#4, .start [0#16]] : List Instr).all
      Instr.wellFormed = true := by decide

theorem witness_EncodeDecodeAgree :
    decode { format := .H, nbits := 2, word := 3#32 } = .instr .rdhex := by decide

theorem witness_EmittedBytesReadBack :
    (0x7F#21).toNat ≤ 0x7F ∧ (0x80 ≤ (0x80#21).toNat ∧ (0x7FF#21).toNat ≤ 0x7FF) ∧
    (0x800 ≤ (0x800#21).toNat ∧ (0xFFFF#21).toNat ≤ 0xFFFF) ∧ 0x10000 ≤ (0x10000#21).toNat := by decide

theorem witness_StepRunsDecodedInstruction_host :
    (startState [0x61#16]).agenda = .host (encode (.start [0x61#16])) :: [] ∧
    hostFormat (encode (.start [0x61#16])).format = true ∧
    decode (encode (.start [0x61#16])) = .instr (.start [0x61#16]) := by decide

theorem witness_StepRunsDecodedInstruction_engine :
    (encoding [0xE9#16] 0).busy = true ∧ (encoding [0xE9#16] 0).i < (encoding [0xE9#16] 0).n ∧
    decode (selector (encoding [0xE9#16] 0)) = .instr (.uEnc2 0xE9#21) ∧ (encoding [0xE9#16] 0).agenda = [] ∧
    ((encoding [0xE9#16] 0).withAgenda [.engine]).agenda = .engine :: [] := by decide

theorem witness_PhaseSelectsOperation :
    ([.idle, .enc, .size, .pack, .mark, .len, .check, .init, .load, .expand, .round, .add, .hex, .done, .fault] :
        List Phase).all (fun ph => decide ({ State.reset with phase := ph }.phase = ph ∧
          { State.reset with phase := ph }.agenda = [])) = true ∧
    ([0x7F#16, 0x80#16, 0x7FF#16, 0x800#16, 0xFFFF#16] : List CodeUnit).all (fun u =>
        decide ((encoding [u] 0).i < (encoding [u] 0).n ∧
          (resolve (encoding [u] 0).T (encoding [u] 0).n (encoding [u] 0).i).1 = u.setWidth 21)) = true ∧
    (resolve (encoding [0xD800#16, 0xDC00#16] 0).T 2 0).1 = 0x10000#21 := by decide

theorem witness_PollingLoopFollowsStatus :
    { State.reset with agenda := [.poll], phase := .done }.agenda = .poll :: [] ∧
    { State.reset with agenda := [.poll], phase := .done }.phase = .done ∧
    { State.reset with agenda := [.poll], phase := .fault }.phase = .fault ∧
    { State.reset with agenda := [.poll], phase := .hex }.phase ≠ .done ∧
    { State.reset with agenda := [.poll], phase := .hex }.phase ≠ .fault := by decide

theorem witness_ResetForgetsData :
    State.reset ≠ { State.reset with n := 7, phase := .round, fcode := .none } ∧
    State.reset.draws = { State.reset with n := 7, phase := .round }.draws := by decide

theorem witness_StartLatchesText :
    Config.textFits State.reset.maxUnits ([] : List CodeUnit).length = true ∧
    Config.textFits (some 2) [0x61#16, 0x62#16].length = true ∧ State.reset.phase = .idle ∧
    { State.reset with phase := .done }.phase = .done ∧ { State.reset with phase := .hex }.phase ≠ .idle ∧
    { State.reset with phase := .hex }.phase ≠ .done := by decide

theorem witness_OverlongStartIsRefused :
    { State.reset with maxUnits := some 1 }.maxUnits = some 1 ∧ 1 < [0x61#16, 0x62#16].length := by decide

theorem witness_StatusReadsBack :
    State.reset.faultAgrees ∧ (State.reset.enterFault .blockCount).faultAgrees := by
  constructor <;> simp [State.faultAgrees, State.reset]

theorem witness_HexStringIsReturned :
    { State.reset with phase := .done }.phase = .done ∧ State.reset.phase ≠ .done := by decide

theorem witness_OnlyResetAndAcceptedStartChangeEngine :
    ([.reset, .start [0x61#16], .rdstat, .rdhex, .digest [], .hexCharA] : List Instr).all (fun i =>
      (nextOf (step { State.reset with agenda := [.host (encode i)] })).isSome) = true := by decide

theorem witness_SurrogatesResolve :
    ([(0xD800#16, 0xDC00#16), (0xDBFF#16, 0xDFFF#16)] : List (CodeUnit × CodeUnit)).all (fun x =>
      decide (0xD800 ≤ (Mem.read (Mem.ofListFrom 0 [x.1, x.2]) 0).toNat ∧
        (Mem.read (Mem.ofListFrom 0 [x.1, x.2]) 0).toNat ≤ 0xDBFF ∧
        0xDC00 ≤ (Mem.read (Mem.ofListFrom 0 [x.1, x.2]) 1).toNat ∧
        (Mem.read (Mem.ofListFrom 0 [x.1, x.2]) 1).toNat ≤ 0xDFFF)) = true ∧
    ¬ (0xD800 ≤ (Mem.read (Mem.ofListFrom 0 [0xDC00#16]) 0).toNat ∧
      (Mem.read (Mem.ofListFrom 0 [0xDC00#16]) 0).toNat ≤ 0xDBFF) := by decide

theorem witness_EncoderRowsAppend :
    (encoding [0x61#16] 0).i < (encoding [0x61#16] 0).n ∧ (encoding [0x61#16] 0).B.wf = true ∧
    (encoding [0x61#16] 0x1FFFFFFB).nb + 4 ≤ Config.maxBytes ∧
    Config.maxBytes < (encoding [0x61#16] 0x1FFFFFFF).nb + 1 ∧ 0x80 ≤ (0x80#21).toNat ∧ (0x7FF#21).toNat ≤ 0x7FF ∧
    0x800 ≤ (0x800#21).toNat ∧ (0xFFFF#21).toNat ≤ 0xFFFF ∧ 0x10000 ≤ (0x10000#21).toNat := by decide

theorem witness_DropConsumesItem :
    (encoding [0x61#16] 0).i < (encoding [0x61#16] 0).n := by decide

theorem witness_SizesAreComputed :
    (sizedAt .size 0).nb = 0 ∧ (sizedAt .size (2 ^ 29 - 1)).nb ≤ 2 ^ 29 - 1 ∧
    (sizedAt .size (2 ^ 29 - 1)).nb ≠ 0 := by decide

theorem witness_BytesArePackedBigEndian :
    { sizedAt .pack 1 with j := 0 }.M.wf = true ∧ { sizedAt .pack 1 with j := 0 }.j < (sizedAt .pack 1).nb ∧
    { sizedAt .pack 1 with j := 0 }.j / 4 < (sizedAt .pack 1).N ∧
    { sizedAt .pack 120 with j := 119 }.j < (sizedAt .pack 120).nb ∧
    { sizedAt .pack 120 with j := 119 }.j / 4 < (sizedAt .pack 120).N := by decide

theorem witness_MarkerIsAppended :
    (sizedAt .mark 55).nb + 9 ≤ 4 * (sizedAt .mark 55).N ∧ (sizedAt .mark 55).M.wf = true ∧ (sizedAt .mark 55).nb / 4 < (sizedAt .mark 55).N ∧
    (sizedAt .mark 0).nb / 4 < (sizedAt .mark 0).N := by decide

theorem witness_LengthIsStored :
    (sizedAt .len 0).M.wf = true ∧ 0 < (sizedAt .len 0).N := by decide

theorem witness_WordCountIsChecked :
    (sizedAt .check 0).N % 16 = 0 ∧ { sizedAt .check 0 with N := 17 }.N % 16 ≠ 0 := by decide

theorem witness_BlockIsLoaded :
    16 * (sizedAt .load 0).blk + 15 < (sizedAt .load 0).N ∧
    16 * { sizedAt .load 120 with blk := 2 }.blk + 15 < (sizedAt .load 120).N := by decide

theorem witness_ScheduleIsExpanded :
    16 ≤ (sizedAt .expand 0).t ∧ (sizedAt .expand 0).t < 63 ∧ 16 ≤ { sizedAt .expand 0 with t := 63 }.t ∧
    { sizedAt .expand 0 with t := 63 }.t = 63 := by decide

theorem witness_RoundMovesVariables :
    { sizedAt .round 0 with t := 0 }.t < 63 ∧ { sizedAt .round 0 with t := 63 }.t = 63 := by decide

theorem witness_BlockIsAddedBack :
    (sizedAt .add 0).blk + 1 = (sizedAt .add 0).nblk ∧ (sizedAt .add 56).blk + 1 ≠ (sizedAt .add 56).nblk := by decide

theorem witness_ChooseAndMajority_and_MixingFunctionsTakeBits : 0 < 32 ∧ 31 < 32 := by decide

theorem witness_NibbleIsRendered :
    (sizedAt .hex 0).p < 63 ∧ { sizedAt .hex 0 with p := 63 }.p = 63 ∧
    (0x90000000#32).toNat / 16 ^ (7 - 0 % 8) % 16 = 9 ∧ (0xA0000000#32).toNat / 16 ^ (7 - 0 % 8) % 16 = 10 := by decide

theorem witness_HexStringDeterminesState : toHex IV = toHex (Vector.ofFn fun k : Fin 8 => IV[k]) := by decide +kernel

theorem witness_BrokenPreconditionsStop :
    State.reset.n ≤ State.reset.i ∧ State.reset.nb ≤ State.reset.j ∧
    ({ State.reset with nb := 1 }.j < 1 ∧ { State.reset with nb := 1 }.N ≤ { State.reset with nb := 1 }.j / 4) ∧
    State.reset.N ≤ State.reset.nb / 4 ∧ State.reset.N = 0 ∧ State.reset.N ≤ 16 * State.reset.blk + 15 ∧
    State.reset.t < 16 ∧ 63 < { State.reset with t := 64 }.t ∧ 63 < { State.reset with p := 64 }.p := by decide

theorem witness_OnlyResetLeavesFault :
    (State.reset.enterFault .lengthOverflow).phase = .fault ∧
    nextOf (step (State.reset.enterFault .lengthOverflow)) = some (State.reset.enterFault .lengthOverflow) ∧
    (nextOf (step ((State.reset.enterFault .lengthOverflow).withAgenda [.host (encode .reset)]))).map (·.phase) =
      some .idle := by decide

/-- A reachable kind of state in every phase that has a condition meets the invariant. -/
theorem witness_StepKeepsInvariant_and_EveryIndexIsInRange :
    (encoding [0x61#16] 0).Inv ∧ (sizedAt .size 0).Inv ∧ { sizedAt .pack 1 with j := 0 }.Inv ∧
    (sizedAt .load 56).Inv ∧ (sizedAt .expand 0).Inv ∧ { sizedAt .hex 0 with blk := 1 }.Inv ∧
    (nextOf (step (sizedAt .expand 0))).isSome = true := by
  refine ⟨?_, ?_, ?_, ?_, ?_, ?_, by decide⟩ <;>
    simp [State.Inv, State.memWf, State.faultAgrees, State.phaseInv, State.packed, State.sized, State.encoded,
      encoding, sizedAt, State.reset, Config.maxBytes, blocksFor, Mem.ofListFrom, Mem.consCell, Mem.unlisted, Mem.wf,
      Mem.wfFrom]

theorem witness_EngineFollowsTransitionGraph :
    (sizedAt .size 0).Inv ∧ (sizedAt .size 0).agenda = [] ∧ (sizedAt .size 0).busy = true := by
  refine ⟨?_, by decide, by decide⟩
  simp [State.Inv, State.memWf, State.faultAgrees, State.phaseInv, State.encoded, sizedAt, State.reset,
    Config.maxBytes]

theorem witness_BuffersBelongToStages :
    ([.idle, .size, .mark, .len, .check, .init, .load, .expand, .round, .add, .hex, .done, .fault] : List Phase).all
      (fun ph => decide ((sizedAt ph 0).agenda = []) && (nextOf (step (sizedAt ph 0))).isSome) = true ∧
    (nextOf (step (encoding [0x61#16] 0))).isSome = true ∧
    (nextOf (step { sizedAt .pack 1 with j := 0 })).isSome = true := by decide +kernel

theorem witness_EncoderComputesEncodeUtf8 :
    (encoding [0x61#16, 0xE9#16] 0).phase = .enc ∧ (encoding [0x61#16, 0xE9#16] 0).agenda = [] ∧
    (encoding [0x61#16, 0xE9#16] 0).i = 0 ∧ (encoding [0x61#16, 0xE9#16] 0).nb = 0 ∧
    (encoding [0x61#16, 0xE9#16] 0).B.wf = true ∧ [0x61#16, 0xE9#16] ≠ [] ∧
    (encoding [0x61#16, 0xE9#16] 0).n = [0x61#16, 0xE9#16].length ∧
    (encoding [0x61#16, 0xE9#16] 0).T.toList 2 = [0x61#16, 0xE9#16] ∧
    (encodeUtf8 [0x61#16, 0xE9#16]).length ≤ Config.maxBytes := by decide

theorem witness_PadderComputesPackBlocks :
    (sizedAt .size 3).phase = .size ∧ (sizedAt .size 3).agenda = [] ∧ (sizedAt .size 3).nb ≤ Config.maxBytes ∧
    (sizedAt .size Config.maxBytes).nb ≤ Config.maxBytes := by decide

theorem witness_CompressionComputesCompress :
    (sizedAt .check 56).phase = .check ∧ (sizedAt .check 56).agenda = [] ∧ 0 < (sizedAt .check 56).nblk ∧
    (sizedAt .check 56).N = 16 * (sizedAt .check 56).nblk := by decide

theorem witness_FormatterComputesToHex :
    (sizedAt .hex 0).phase = .hex ∧ (sizedAt .hex 0).agenda = [] ∧ (sizedAt .hex 0).p = 0 := by decide

/-- Also for InvocationTakesStepCount. -/
theorem witness_InvocationComputesDigest :
    aboutToStart (startState [0xD83D#16, 0xDE00#16]) [0xD83D#16, 0xDE00#16] ∧
    (encodeUtf8 [0xD83D#16, 0xDE00#16]).length ≤ Config.maxBytes := by
  refine ⟨⟨by decide, by decide, by decide⟩, by decide⟩

theorem length_encodeUtf8_replicate (k : Nat) : (encodeUtf8 (List.replicate k 0x61#16)).length = k := by
  induction k using Nat.twoStepInduction with
  | zero => rfl
  | one => rfl
  | more k _ ih =>
    have h : items (List.replicate (k + 2) 0x61#16) = 0x61#21 :: items (List.replicate (k + 1) 0x61#16) := by
      simp [List.replicate_succ, items, isHigh]
    have h1 : (emit 0x61#21).length = 1 := by decide
    simp only [encodeUtf8] at ih ⊢
    rw [h, List.flatMap_cons, List.length_append, ih, h1]
    omega

/-- V33: the whole text of 2^29 units. -/
theorem witness_OverlongTextFaults :
    aboutToStart (startState (List.replicate (2 ^ 29) 0x61#16)) (List.replicate (2 ^ 29) 0x61#16) ∧
    Config.maxBytes < (encodeUtf8 (List.replicate (2 ^ 29) 0x61#16)).length := by
  refine ⟨⟨rfl, rfl, rfl⟩, ?_⟩
  rw [length_encodeUtf8_replicate]
  norm_num [Config.maxBytes]

theorem witness_StepCountIsBounded :
    (encodeUtf8 []).length ≤ Config.maxBytes ∧ stepCount [] = 183 := by decide

theorem witness_DigestReturnsHexString :
    { State.reset with agenda := [.host (encode (.digest [0x61#16]))] }.ready = true ∧
    Config.textFits State.reset.maxUnits [0x61#16].length = true ∧
    (encodeUtf8 [0x61#16]).length ≤ Config.maxBytes := by decide

/-- Two states that differ in what they hold, and a first step. -/
theorem witness_ResultDependsOnTextOnly :
    aboutToStart (startState [0x61#16]) [0x61#16] ∧
    aboutToStart { startState [0x61#16] with phase := .done, B := [(0, 7#8)], nb := 1, H := IV } [0x61#16] ∧
    (nextOf (Host.Core.run core 1 (startState [0x61#16]))).isSome = true := by
  refine ⟨⟨by decide, by decide, by decide⟩, ⟨by decide, by decide, by decide⟩, by decide⟩

end Sys2Proof.Tests
end

section
/-! PROOFS. What the platform's limit on the text does to `START` (D4, U9). -/

namespace Sys2Proof

/-- A finite `MAX_UNITS` admits exactly the texts up to its length (R7). -/
@[simp] theorem Config.textFits_some {m n : Nat} : Config.textFits (some m) n = true ↔ n ≤ m :=
  decide_eq_true_iff

namespace Machine

/-- The limit is looked at before the phase, so one refusal covers all fifteen phases (log entry 8). -/
theorem exec_start_of_not_textFits {text : List CodeUnit} {s : State}
    (h : ¬ Config.textFits s.maxUnits text.length = true) :
    exec (.start text) s = .refused .tooManyUnits :=
  if_neg h

/-- Settles O12: a text past a finite limit does not fit, and a text that does not fit is refused. -/
theorem overlongStartIsRefused : Obligations.OverlongStartIsRefused := by
  intro s text m hlimit hlong
  have hfits : ¬ Config.textFits s.maxUnits text.length = true := by
    rw [hlimit, Config.textFits_some]
    omega
  exact exec_start_of_not_textFits hfits

end Machine

end Sys2Proof
end

section
/-! PROOFS. Items and their bytes: how long the byte sequence of a code point is, and what a surrogate pair resolves to
(R72, R77, R102). -/

namespace Sys2Proof.Machine

/-- The surrogate formula as arithmetic: no carry is lost (R72). -/
theorem pairPoint_toNat (hi lo : CodeUnit) :
    (pairPoint hi lo).toNat = 0x10000 + 1024 * (hi.toNat % 1024) + lo.toNat % 1024 := by
  have hmask (n : Nat) : n &&& 1023 = n % 1024 := Nat.and_two_pow_sub_one_eq_mod n 10
  simp only [pairPoint, BitVec.toNat_add, BitVec.toNat_shiftLeft, BitVec.toNat_setWidth, BitVec.toNat_and,
    BitVec.toNat_ofNat, Nat.shiftLeft_eq]
  norm_num [hmask]
  omega

/-- The four thresholds of R77 over naturals. -/
theorem emit_eq (cp : CodePoint) :
    emit cp = if cp.toNat ≤ 0x7F then form1 cp else if cp.toNat ≤ 0x7FF then form2 cp
      else if cp.toNat ≤ 0xFFFF then form3 cp else form4 cp := by
  simp [emit, BitVec.le_def]

theorem length_emit_pos (cp : CodePoint) : 1 ≤ (emit cp).length := by
  unfold emit
  split_ifs <;> simp [form1, form2, form3, form4]

theorem length_emit_of_supplementary {cp : CodePoint} (h : 0x10000 ≤ cp.toNat) : (emit cp).length = 4 := by
  rw [emit_eq, if_neg (by omega), if_neg (by omega), if_neg (by omega)]
  rfl

theorem length_emit_pairPoint (hi lo : CodeUnit) : (emit (pairPoint hi lo)).length = 4 :=
  length_emit_of_supplementary (by rw [pairPoint_toNat]; omega)

/-- The item at `i` gives at least one byte for every unit it takes (R40). -/
theorem resolve_advance_le_length_emit (T : Mem 16) (n i : Nat) :
    (resolve T n i).2 ≤ (emit (resolve T n i).1).length := by
  by_cases h : (isHigh (T.read i) && decide (i + 1 < n) && isLow (T.read (i + 1))) = true
  · have hpair : resolve T n i = (pairPoint (T.read i) (T.read (i + 1)), 2) := if_pos h
    rw [hpair, length_emit_pairPoint]
    exact (by decide : 2 ≤ 4)
  · have hsingle : resolve T n i = ((T.read i).setWidth 21, 1) := if_neg h
    rw [hsingle]
    exact length_emit_pos _

theorem length_encodeUtf8_of_items_cons {text rest : List CodeUnit} {cp : CodePoint}
    (h : items text = cp :: items rest) :
    (encodeUtf8 text).length = (emit cp).length + (encodeUtf8 rest).length := by
  simp [encodeUtf8, h]

/-- Settles O22, by induction along the items: a pair takes two units and gives four bytes, any other item takes one
unit and gives at least one byte. -/
theorem unitsGiveBytes : Obligations.UnitsGiveBytes := by
  intro text
  induction text using items.induct with
  | case1 => exact ⟨Nat.le_refl 0, Nat.le_refl 0⟩
  | case2 x =>
    have hbytes := length_encodeUtf8_of_items_cons (text := [x]) (rest := []) rfl
    have hpos := length_emit_pos (x.setWidth 21)
    exact ⟨Nat.le_refl 1, by simp only [List.length_singleton]; omega⟩
  | case3 x y rest hpair ih =>
    have hitems : items (x :: y :: rest) = pairPoint x y :: items rest := if_pos hpair
    have hbytes := length_encodeUtf8_of_items_cons hitems
    have hfour := length_emit_pairPoint x y
    simp only [hitems, List.length_cons]
    omega
  | case4 x y rest hsingle ih =>
    have hitems : items (x :: y :: rest) = x.setWidth 21 :: items (y :: rest) := if_neg hsingle
    have hbytes := length_encodeUtf8_of_items_cons hitems
    have hpos := length_emit_pos (x.setWidth 21)
    simp only [hitems, List.length_cons] at ih ⊢
    omega

end Sys2Proof.Machine
end

section
/-! PROOFS. The engine's selector: in ENC the masks of the operation table pick the row of the code point (R77, R84,
R85), and every phase has its code and its operation (R31, R186). -/

namespace Sys2Proof.Machine

/-- Masking off the low `k` bits of a 25-bit number rounds it down to a multiple of `2 ^ k`. -/
theorem and_mask_of_lt {x k : Nat} (hk : k ≤ 25) (hx : x < 2 ^ 25) : x &&& (2 ^ 25 - 2 ^ k) = 2 ^ k * (x / 2 ^ k) := by
  have hmask : 2 ^ 25 - 2 ^ k = 2 ^ k * (2 ^ (25 - k) - 1) := by
    rw [Nat.mul_sub, ← Nat.pow_add, Nat.add_sub_cancel' hk, Nat.mul_one]
  refine Nat.eq_of_testBit_eq fun j => ?_
  rw [hmask, Nat.testBit_and, Nat.testBit_two_pow_mul, Nat.testBit_two_pow_mul, Nat.testBit_two_pow_sub_one,
    Nat.testBit_div_two_pow]
  by_cases hj : k ≤ j
  · by_cases hlt : j < 25
    · simp [hj, show j - k < 25 - k by omega]
    · have hbit : x.testBit j = false :=
        Nat.testBit_lt_two_pow (hx.trans_le (Nat.pow_le_pow_right (by decide) (by omega)))
      simp [hj, hbit]
  · simp [hj]

/-- The selector word of phase ENC and a code point (R85). -/
def encoderWord (cp : CodePoint) : BitVec 32 := (0x1#4 ++ cp).setWidth 32

theorem encoderWord_toNat (cp : CodePoint) : (encoderWord cp).toNat = 2 ^ 21 + cp.toNat := by
  have hcp := cp.isLt
  rw [encoderWord, BitVec.toNat_setWidth, BitVec.toNat_append, ← Nat.shiftLeft_add_eq_or_of_lt hcp, Nat.shiftLeft_eq]
  simp only [BitVec.toNat_ofNat]
  omega

theorem encoderWord_extract (cp : CodePoint) : (encoderWord cp).extractLsb' 0 21 = cp := by
  apply BitVec.eq_of_toNat_eq
  rw [BitVec.extractLsb'_toNat, encoderWord_toNat]
  have hcp := cp.isLt
  simp only [Nat.shiftRight_zero]
  omega

/-- The mask of an encoder row that leaves `k` bits of the code point free accepts the code points below `2 ^ k`. -/
theorem encoderWord_masked {cp : CodePoint} {k : Nat} (hk : k ≤ 21) :
    encoderWord cp &&& BitVec.ofNat 32 (2 ^ 25 - 2 ^ k) = 0x0200000#32 ↔ cp.toNat < 2 ^ k := by
  have hcp := cp.isLt
  have hmask : (2 ^ 25 - 2 ^ k) % 2 ^ 32 = 2 ^ 25 - 2 ^ k :=
    Nat.mod_eq_of_lt ((Nat.sub_le _ _).trans_lt (by decide))
  have hsplit : 2 ^ 21 = 2 ^ k * 2 ^ (21 - k) := by rw [← Nat.pow_add, Nat.add_sub_cancel' hk]
  rw [← BitVec.toNat_inj, BitVec.toNat_and, BitVec.toNat_ofNat, hmask, encoderWord_toNat,
    and_mask_of_lt (by omega) (by omega)]
  have hdiv : (2 ^ 21 + cp.toNat) / 2 ^ k = 2 ^ (21 - k) + cp.toNat / 2 ^ k := by
    rw [hsplit, Nat.mul_add_div (Nat.two_pow_pos k)]
  have hval : (0x0200000#32).toNat = 2 ^ 21 := rfl
  rw [hdiv, Nat.mul_add, ← hsplit, hval]
  constructor
  · intro h
    have hzero : cp.toNat / 2 ^ k = 0 :=
      (Nat.mul_eq_zero.mp (by omega)).resolve_left (Nat.two_pow_pos k).ne'
    exact (Nat.div_eq_zero_iff_lt (Nat.two_pow_pos k)).mp hzero
  · intro h
    rw [Nat.div_eq_of_lt h, Nat.mul_zero, Nat.add_zero]

/-- The encoder row of a code point: the first threshold of R77 that holds. -/
def encoderRowOf (cp : CodePoint) : Instr :=
  if cp.toNat ≤ 0x7F then .uEnc1 cp else if cp.toNat ≤ 0x7FF then .uEnc2 cp
  else if cp.toNat ≤ 0xFFFF then .uEnc3 cp else .uEnc4 cp

/-- The decoder's priority of masks and the thresholds of R77 select the same row. -/
theorem decode_encoderWord (cp : CodePoint) :
    decode { format := .phaseCp, nbits := 25, word := encoderWord cp } = .instr (encoderRowOf cp) := by
  have hcp := cp.isLt
  have h1 : encoderWord cp &&& 0x1FFFF80#32 = 0x0200000#32 ↔ cp.toNat ≤ 0x7F :=
    (encoderWord_masked (k := 7) (by decide)).trans Nat.lt_succ_iff
  have h2 : encoderWord cp &&& 0x1FFF800#32 = 0x0200000#32 ↔ cp.toNat ≤ 0x7FF :=
    (encoderWord_masked (k := 11) (by decide)).trans Nat.lt_succ_iff
  have h3 : encoderWord cp &&& 0x1FF0000#32 = 0x0200000#32 ↔ cp.toNat ≤ 0xFFFF :=
    (encoderWord_masked (k := 16) (by decide)).trans Nat.lt_succ_iff
  have h4 : encoderWord cp &&& 0x1E00000#32 = 0x0200000#32 := (encoderWord_masked (k := 21) (by decide)).mpr hcp
  have hhigh : encoderWord cp >>> 25 = 0#32 := by
    rw [← BitVec.toNat_inj, BitVec.toNat_ushiftRight, encoderWord_toNat, Nat.shiftRight_eq_div_pow]
    exact Nat.div_eq_of_lt (by omega)
  have hwidth : 25 ∈ Format.phaseCp.widths := by decide
  simp [decode, decodePhaseCp, encoderRowOf, hwidth, hhigh, h1, h2, h3, h4, encoderWord_extract,
    apply_ite Decoded.instr]

theorem exec_encoderRowOf (cp : CodePoint) (s : State) : exec (encoderRowOf cp) s = appendAdvance (emit cp) s := by
  rw [emit_eq, encoderRowOf]
  split_ifs <;> rfl

theorem State.busy_of_enc {s : State} (h : s.phase = .enc) : s.busy = true := by
  simp [State.busy, h, Phase.code]

/-- In ENC the engine runs the encoder row of the code point that R102 resolves. -/
theorem engineTurn_enc_row {s : State} (h : s.phase = .enc) (hi : s.i < s.n) :
    engineTurn s = exec (encoderRowOf (resolve s.T s.n s.i).1) s := by
  have hsel : selector s =
      { format := .phaseCp, nbits := 25, word := encoderWord (resolve s.T s.n s.i).1 } := by
    simp [selector, h, Phase.code, encoderWord]
  simp only [engineTurn, State.busy_of_enc h, if_true, h, inRange_of_lt hi, hsel, runPacket, decode_encoderWord]

/-- In ENC the engine appends the bytes of the resolved code point (R101). -/
theorem engineTurn_enc {s : State} (h : s.phase = .enc) (hi : s.i < s.n) :
    engineTurn s = appendAdvance (emit (resolve s.T s.n s.i).1) s := by
  rw [engineTurn_enc_row h hi, exec_encoderRowOf]

theorem engineTurn_enc_of_not_lt {s : State} (h : s.phase = .enc) (hi : ¬ s.i < s.n) :
    engineTurn s = .fault (.outOfRange .T) := by
  simp only [engineTurn, State.busy_of_enc h, if_true, h, inRange_of_not_lt hi]

/-- The four exclusive ranges of a code point and the row of each (R77). -/
theorem encoderRowOf_cases (cp : CodePoint) :
    (cp.toNat ≤ 0x7F ∧ encoderRowOf cp = .uEnc1 cp) ∨
    (0x80 ≤ cp.toNat ∧ cp.toNat ≤ 0x7FF ∧ encoderRowOf cp = .uEnc2 cp) ∨
    (0x800 ≤ cp.toNat ∧ cp.toNat ≤ 0xFFFF ∧ encoderRowOf cp = .uEnc3 cp) ∨
    (0x10000 ≤ cp.toNat ∧ encoderRowOf cp = .uEnc4 cp) := by
  unfold encoderRowOf
  by_cases h1 : cp.toNat ≤ 0x7F
  · exact .inl ⟨h1, if_pos h1⟩
  rw [if_neg h1]
  by_cases h2 : cp.toNat ≤ 0x7FF
  · exact .inr (.inl ⟨by omega, h2, if_pos h2⟩)
  rw [if_neg h2]
  by_cases h3 : cp.toNat ≤ 0xFFFF
  · exact .inr (.inr (.inl ⟨by omega, h3, if_pos h3⟩))
  · exact .inr (.inr (.inr ⟨by omega, if_neg h3⟩))

/-- Settles O7, phase by phase: without a turn listed the step is the engine's, and the turn in each phase is known. -/
theorem phaseSelectsOperation : Obligations.PhaseSelectsOperation := by
  intro s hnil
  rw [step_of_agenda_nil hnil]
  refine ⟨fun h => ⟨by rw [h]; rfl, engineTurn_waiting (.inl h)⟩, fun h => ⟨by rw [h]; rfl, ?_⟩,
    fun h => ⟨by rw [h]; rfl, engineTurn_size h⟩, fun h => ⟨by rw [h]; rfl, engineTurn_pack h⟩,
    fun h => ⟨by rw [h]; rfl, engineTurn_mark h⟩, fun h => ⟨by rw [h]; rfl, engineTurn_len h⟩,
    fun h => ⟨by rw [h]; rfl, engineTurn_check h⟩, fun h => ⟨by rw [h]; rfl, engineTurn_init h⟩,
    fun h => ⟨by rw [h]; rfl, engineTurn_load h⟩, fun h => ⟨by rw [h]; rfl, engineTurn_expand h⟩,
    fun h => ⟨by rw [h]; rfl, engineTurn_round h⟩, fun h => ⟨by rw [h]; rfl, engineTurn_add h⟩,
    fun h => ⟨by rw [h]; rfl, engineTurn_hex h⟩, fun h => ⟨by rw [h]; rfl, engineTurn_waiting (.inr (.inl h))⟩,
    fun h => ⟨by rw [h]; rfl, engineTurn_waiting (.inr (.inr h))⟩⟩
  intro hi cp hcp
  rw [engineTurn_enc_row h hi, hcp]
  obtain ⟨hr, he⟩ | ⟨hl, hr, he⟩ | ⟨hl, hr, he⟩ | ⟨hl, he⟩ := encoderRowOf_cases cp
  · exact .inl ⟨hr, by rw [he]⟩
  · exact .inr (.inl ⟨hl, hr, by rw [he]⟩)
  · exact .inr (.inr (.inl ⟨hl, hr, by rw [he]⟩))
  · exact .inr (.inr (.inr ⟨hl, by rw [he]⟩))

end Sys2Proof.Machine
end

section
/-! PROOFS. The status register (R33): its fields are read back by the row STATUS whenever the status can occur. -/

namespace Sys2Proof

/-- The bits of a status word from the lowest up: phase, fault code, busy, done (R33). -/
theorem getLsbD_encode_status (done busy : Bool) (fcode : BitVec 2) (phase : BitVec 4) (k : Nat) :
    (encode (.status done busy fcode phase)).word.getLsbD k =
      if k < 4 then phase.getLsbD k else if k < 6 then fcode.getLsbD (k - 4)
      else if k = 6 then busy else if k = 7 then done else false := by
  simp only [encode, BitVec.getLsbD_setWidth, BitVec.getLsbD_append]
  grind

/-- The row STATUS reads back the four fields of every readable status (R33, R85). -/
theorem decode_encode_status {done busy : Bool} {fcode : BitVec 2} {phase : BitVec 4}
    (h : statusReadable done busy fcode phase = true) :
    decode (encode (.status done busy fcode phase)) = .instr (.status done busy fcode phase) := by
  obtain ⟨hwidth, hhigh⟩ := Laws.EncodeWidth.status done busy fcode phase
  have hbit (k : Nat) := getLsbD_encode_status done busy fcode phase k
  have hdone : (encode (.status done busy fcode phase)).word.getLsbD 7 = done := hbit 7
  have hbusy : (encode (.status done busy fcode phase)).word.getLsbD 6 = busy := hbit 6
  have hfcode : (encode (.status done busy fcode phase)).word.extractLsb' 4 2 = fcode := by
    ext k hk
    simp [BitVec.getElem_extractLsb', hbit, hk, show 4 + k < 6 by omega]
  have hphase : (encode (.status done busy fcode phase)).word.extractLsb' 0 4 = phase := by
    ext k hk
    simp [BitVec.getElem_extractLsb', hbit, hk]
  have hread := h
  simp only [statusReadable, Bool.and_eq_true, decide_eq_true_eq] at hread
  obtain ⟨⟨⟨⟨hreservedPhase, hreservedFault⟩, -⟩, -⟩, -⟩ := hread
  have hstatus : decodeStatus (encode (.status done busy fcode phase)).word =
      .instr (.status done busy fcode phase) := by
    simp only [decodeStatus, hdone, hbusy, hfcode, hphase, if_neg hreservedPhase, if_neg hreservedFault, if_pos h]
  simp only [decode, hwidth, hhigh, not_true_eq_false, if_false, ne_eq]
  exact hstatus

namespace Machine

theorem Phase.code_eq_done {ph : Phase} : ph.code = 0xD#4 ↔ ph = .done := by
  cases ph <;> simp [Phase.code]

theorem Phase.code_eq_fault {ph : Phase} : ph.code = 0xE#4 ↔ ph = .fault := by
  cases ph <;> simp [Phase.code]

/-- The reserved phase code is never entered (R31, U6). -/
theorem Phase.code_ne_reserved (ph : Phase) : ph.code ≠ 0xF#4 := by
  cases ph <;> simp [Phase.code]

theorem FCode.code_eq_zero {c : FCode} : c.code = 0#2 ↔ c = .none := by
  cases c <;> simp [FCode.code]

/-- The reserved fault code is never written (R32, U7). -/
theorem FCode.code_ne_reserved (c : FCode) : c.code ≠ 3#2 := by
  cases c <;> simp [FCode.code]

/-- With a fault code exactly in FAULT, the status is one that can be read (R32, R33). -/
theorem State.statusReadable_of_faultAgrees {s : State} (h : s.faultAgrees) :
    statusReadable s.done s.busy s.fcode.code s.phase.code = true := by
  have hcode : s.fcode.code ≠ 0#2 ↔ s.phase.code = 0xE#4 := by
    rw [Phase.code_eq_fault, ne_eq, FCode.code_eq_zero]
    exact h
  simp [statusReadable, State.done, State.busy, Phase.code_ne_reserved, FCode.code_ne_reserved, Phase.code_eq_done,
    hcode]

/-- Settles O14: the status byte is the encoding of the row STATUS with the state's own fields, and those are
readable. -/
theorem statusReadsBack : Obligations.StatusReadsBack := by
  intro s h
  exact decode_encode_status (State.statusReadable_of_faultAgrees h)

end Machine

end Sys2Proof
end

section
/-! PROOFS. What a turn of the host can do to the engine (R39, R58, R180, R190, R223). -/

namespace Sys2Proof

/-- If the decoder answers an instruction, it is a row of format `f`. -/
def Decoded.ofFormat (f : Format) : Decoded → Prop
  | .instr i => (encode i).format = f
  | .rejected _ => True

theorem Decoded.ofFormat_ite {f : Format} {c : Prop} [Decidable c] {d e : Decoded} (hd : d.ofFormat f)
    (he : e.ofFormat f) : (if c then d else e).ofFormat f := by
  split
  · exact hd
  · exact he

theorem Decoded.ofFormat_guard {f : Format} {c : Prop} [Decidable c] {why : DecodeError} {d : Decoded}
    (hd : d.ofFormat f) : (if c then .rejected why else d).ofFormat f :=
  Decoded.ofFormat_ite trivial hd

theorem decodeCommand_ofFormat (w : BitVec 32) (text : List CodeUnit) : (decodeCommand w text).ofFormat .H := by
  unfold decodeCommand
  repeat' apply Decoded.ofFormat_ite
  all_goals trivial

theorem decodePhase_ofFormat (w : BitVec 32) : (decodePhase w).ofFormat .phase := by
  unfold decodePhase
  repeat' apply Decoded.ofFormat_ite
  all_goals trivial

theorem decodePhaseCp_ofFormat (w : BitVec 32) : (decodePhaseCp w).ofFormat .phaseCp := by
  unfold decodePhaseCp
  repeat' apply Decoded.ofFormat_ite
  all_goals trivial

theorem decodePhaseCp22_ofFormat (w : BitVec 32) : (decodePhaseCp22 w).ofFormat .phaseCp22 :=
  Decoded.ofFormat_ite rfl trivial

theorem decodeUtf8_ofFormat (nbits : Nat) (w : BitVec 32) : (decodeUtf8 nbits w).ofFormat .utf8 := by
  unfold decodeUtf8
  repeat' apply Decoded.ofFormat_ite
  all_goals trivial

theorem decodeHexChar_ofFormat (w : BitVec 32) : (decodeHexChar w).ofFormat .hexChar := by
  unfold decodeHexChar
  repeat' apply Decoded.ofFormat_ite
  all_goals trivial

theorem decodeStatus_ofFormat (w : BitVec 32) : (decodeStatus w).ofFormat .status :=
  Decoded.ofFormat_guard (Decoded.ofFormat_guard (Decoded.ofFormat_ite rfl trivial))

theorem decode_ofFormat (p : Packet) : (decode p).ofFormat p.format := by
  refine Decoded.ofFormat_guard (Decoded.ofFormat_guard ?_)
  obtain ⟨format, nbits, word, text⟩ := p
  cases format with
  | H => exact decodeCommand_ofFormat word text
  | pseudo => exact rfl
  | phase => exact Decoded.ofFormat_guard (decodePhase_ofFormat word)
  | phaseCp => exact Decoded.ofFormat_guard (decodePhaseCp_ofFormat word)
  | phaseCp22 => exact Decoded.ofFormat_guard (decodePhaseCp22_ofFormat word)
  | utf8 => exact Decoded.ofFormat_guard (decodeUtf8_ofFormat nbits word)
  | hexChar => exact Decoded.ofFormat_guard (decodeHexChar_ofFormat word)
  | status => exact Decoded.ofFormat_guard (decodeStatus_ofFormat word)

/-- A packet decodes to a row of its own format only (R85). -/
theorem format_of_decode {p : Packet} {i : Instr} (h : decode p = .instr i) : (encode i).format = p.format := by
  have hrow := decode_ofFormat p
  rwa [h] at hrow

namespace Machine

open Claims

/-- Without `RESET` and an accepted `START`, a row that the host may hand over leaves the engine as it was. -/
theorem exec_host_row_cases {i : Instr} {s t : State} (hrow : hostFormat (encode i).format = true)
    (h : exec i s = .next t) :
    sameEngine s t ∨ (i = .reset ∧ t = s.afterReset) ∨
      ∃ text, i = .start text ∧ s.ready = true ∧ t = s.latch text := by
  cases i with
  | reset => exact .inr (.inl ⟨rfl, (Host.Outcome.next.inj h).symm⟩)
  | start text =>
    replace h : execStart text s = .next t := h
    unfold execStart at h
    split_ifs at h with hfits hready
    · exact .inr (.inr ⟨text, rfl, hready, (Host.Outcome.next.inj h).symm⟩)
    · cases h
      exact .inl rfl
  | rdhex =>
    replace h : execRdhex s = .next t := h
    unfold execRdhex at h
    split_ifs at h <;> cases h <;> exact .inl rfl
  | uEnc1 _ | uEnc2 _ | uEnc3 _ | uEnc4 _ | uDrop _ | pSize | pPack | pMark | pLen | pCheck | cInit | cLoad | cExpand
  | cRound | cAdd | xNib => cases hrow
  | rdstat | digest _ | utf8Form1 _ | utf8Form2 _ | utf8Form3 _ | utf8Form4 _ | hexChar0 | hexChar1 | hexChar2
  | hexChar3 | hexChar4 | hexChar5 | hexChar6 | hexChar7 | hexChar8 | hexChar9 | hexCharA | hexCharB | hexCharC
  | hexCharD | hexCharE | hexCharF | status _ _ _ _ =>
    cases h
    exact .inl rfl

/-- All that a turn of the host with a packet can do. -/
theorem hostTurn_cases {p : Packet} {s t : State} (h : hostTurn p s = .next t) :
    sameEngine s t ∨ (decode p = .instr .reset ∧ t = s.afterReset) ∨
      ∃ text, decode p = .instr (.start text) ∧ s.ready = true ∧ t = s.latch text := by
  unfold hostTurn at h
  split_ifs at h with hfmt
  unfold runPacket at h
  split at h
  · rename_i i hdec
    have hrow : hostFormat (encode i).format = true := by rwa [format_of_decode hdec]
    obtain hsame | ⟨rfl, ht⟩ | ⟨text, rfl, hready, ht⟩ := exec_host_row_cases hrow h
    · exact .inl hsame
    · exact .inr (.inl ⟨hdec, ht⟩)
    · exact .inr (.inr ⟨text, hdec, hready, ht⟩)
  · cases h

/-- A poll only reads (R58, R185). -/
theorem sameEngine_of_pollTurn {s t : State} (h : pollTurn s = .next t) : sameEngine s t := by
  unfold pollTurn at h
  split_ifs at h <;> cases h <;> rfl

/-- Taking a turn off the agenda is not a change of the engine. -/
theorem sameEngine_of_withAgenda {s t : State} {a : List Turn} (h : sameEngine (s.withAgenda a) t) :
    sameEngine s t := h

theorem State.ready_iff {s : State} : s.ready = true ↔ s.phase = .idle ∨ s.phase = .done := by
  simp [State.ready]

/-- Settles O17: the host's turn either leaves the engine alone or is one of the two commands, and taking the turn off the
agenda is no change of the engine. -/
theorem onlyResetAndAcceptedStartChangeEngine : Obligations.OnlyResetAndAcceptedStartChangeEngine := by
  intro s t p rest hagenda hstep
  rw [step_of_host_turn hagenda] at hstep
  obtain hsame | ⟨hdec, -⟩ | ⟨text, hdec, hready, -⟩ := hostTurn_cases hstep
  · exact .inl (sameEngine_of_withAgenda hsame)
  · exact .inr (.inl hdec)
  · exact .inr (.inr ⟨text, hdec, State.ready_iff.mp hready⟩)

end Machine

end Sys2Proof
end

section
/-! PROOFS. The invariant holds at reset and every step keeps it (R32, R38, R40, R68). -/

namespace Sys2Proof.Machine

open Claims

/-- Outside FAULT the invariant asks for canonical buffers and no fault code. -/
def State.clean (s : State) : Prop :=
  s.T.wf = true ∧ s.B.wf = true ∧ s.M.wf = true ∧ s.fcode = .none

theorem State.memWf_iff {s : State} : s.memWf = true ↔ s.T.wf = true ∧ s.B.wf = true ∧ s.M.wf = true := by
  simp [State.memWf, and_assoc]

theorem State.faultAgrees_iff_of_ne_fault {s : State} (h : s.phase ≠ .fault) : s.faultAgrees ↔ s.fcode = .none := by
  simp [State.faultAgrees, h]

theorem State.inv_iff_of_ne_fault {s : State} (h : s.phase ≠ .fault) : s.Inv ↔ s.clean ∧ s.phaseInv := by
  rw [State.Inv, State.memWf_iff, State.faultAgrees_iff_of_ne_fault h, State.clean]
  tauto

/-- In a phase that is known, the invariant is that phase's condition. -/
theorem State.Inv.at_phase {s : State} {ph : Phase} (hs : s.Inv) (hph : s.phase = ph) (hne : ph ≠ .fault) :
    s.clean ∧ s.phaseInv :=
  (State.inv_iff_of_ne_fault (hph ▸ hne)).mp hs

theorem State.Inv.of_clean {s : State} (hne : s.phase ≠ .fault) (hc : s.clean) (hp : s.phaseInv) : s.Inv :=
  (State.inv_iff_of_ne_fault hne).mpr ⟨hc, hp⟩

/-- The invariant speaks of the engine alone. -/
theorem State.Inv.of_sameEngine {s t : State} (h : sameEngine s t) (hs : s.Inv) : t.Inv := by
  rw [h]
  exact hs

theorem State.Inv.withAgenda {s : State} (hs : s.Inv) (a : List Turn) : (s.withAgenda a).Inv := hs

/-- Fault entry keeps the buffers and records a code, which is all that FAULT asks for (R204). -/
theorem State.Inv.enterFault {s : State} (hs : s.Inv) {c : FCode} (hc : c ≠ .none) : (s.enterFault c).Inv :=
  ⟨hs.1, by simp [State.faultAgrees, hc], trivial⟩

/-- `RESET` leaves IDLE with whatever canonical buffers are drawn (R220). -/
theorem State.inv_afterReset (s : State) : s.afterReset.Inv :=
  .of_clean (by simp) ⟨Mem.wf_ofCells _, Mem.wf_ofCells _, Mem.wf_ofCells _, rfl⟩ trivial

theorem State.Inv.latch {s : State} (hs : s.Inv) (text : List CodeUnit) : (s.latch text).Inv := by
  obtain ⟨-, -, hM⟩ := State.memWf_iff.mp hs.1
  have hclean : (s.latch text).clean := ⟨Mem.wf_ofListFrom 0 text, rfl, hM, rfl⟩
  by_cases hempty : text.length = 0
  · refine .of_clean (by simp [hempty]) hclean ?_
    simp [State.phaseInv, State.encoded, hempty]
  · refine .of_clean (by simp [hempty]) hclean ?_
    simp only [State.phaseInv, State.latch_phase, if_neg hempty]
    exact ⟨Nat.pos_of_ne_zero hempty, Nat.zero_le _, Nat.le_refl 0⟩

/-! ### The engine's operations, each from a state of its own phase -/

/-- R108: every item brings at least as many bytes as it takes units, so `i` stays at most `nb`. -/
theorem inv_of_engineTurn_enc {s t : State} (hs : s.Inv) (hph : s.phase = .enc) (h : engineTurn s = .next t) :
    t.Inv := by
  obtain ⟨⟨hT, hB, hM, hcode⟩, hphase⟩ := hs.at_phase hph (by decide)
  simp only [State.phaseInv, hph] at hphase
  obtain ⟨hi, hnb, hle⟩ := hphase
  have hadvance := resolve_advance_le_length_emit s.T s.n s.i
  have hinside := resolve_advance_le s.T hi
  rw [engineTurn_enc hph hi] at h
  obtain ⟨hlimit, heq⟩ | ⟨-, heq⟩ := appendAdvance_cases (emit (resolve s.T s.n s.i).1) hi
  · rw [heq] at h
    cases h
    have hbytes : s.i + (resolve s.T s.n s.i).2 ≤ s.nb + (emit (resolve s.T s.n s.i).1).length := by omega
    by_cases hend : s.i + (resolve s.T s.n s.i).2 = s.n
    · simp only [if_pos hend]
      exact .of_clean (by simp) ⟨hT, Mem.wf_writeList hB _ _, hM, hcode⟩ ⟨hlimit, hend, hend.ge.trans hbytes⟩
    · simp only [if_neg hend]
      exact .of_clean (by simp) ⟨hT, Mem.wf_writeList hB _ _, hM, hcode⟩
        ⟨lt_of_le_of_ne hinside hend, hlimit, hbytes⟩
  · rw [heq] at h
    cases h
    exact hs.enterFault (by decide)

theorem inv_of_execPSize {s t : State} (hs : s.Inv) (hph : s.phase = .size) (h : execPSize s = .next t) : t.Inv := by
  obtain ⟨⟨hT, hB, -, hcode⟩, hphase⟩ := hs.at_phase hph (by decide)
  simp only [State.phaseInv, hph] at hphase
  cases h
  by_cases hnb : s.nb = 0
  · simp only [if_pos hnb]
    exact .of_clean (by simp) ⟨hT, hB, rfl, hcode⟩ ⟨⟨hphase, rfl, rfl, rfl⟩, hnb.symm⟩
  · simp only [if_neg hnb]
    exact .of_clean (by simp) ⟨hT, hB, rfl, hcode⟩ ⟨⟨hphase, rfl, rfl, rfl⟩, Nat.pos_of_ne_zero hnb⟩

theorem inv_of_execPPack {s t : State} (hs : s.Inv) (hph : s.phase = .pack) (h : execPPack s = .next t) : t.Inv := by
  obtain ⟨⟨hT, hB, hM, hcode⟩, hphase⟩ := hs.at_phase hph (by decide)
  simp only [State.phaseInv, hph] at hphase
  obtain ⟨hsized, hj⟩ := hphase
  obtain ⟨-, -, heq⟩ := by simpa only [execPPack, inRange_eq_next] using h
  cases heq
  by_cases hlast : s.j + 1 = s.nb
  · simp only [if_pos hlast]
    exact .of_clean (by simp) ⟨hT, hB, Mem.wf_write hM _ _, hcode⟩ ⟨hsized, hlast⟩
  · simp only [if_neg hlast]
    exact .of_clean (by simp) ⟨hT, hB, Mem.wf_write hM _ _, hcode⟩ ⟨hsized, lt_of_le_of_ne hj hlast⟩

theorem inv_of_execPMark {s t : State} (hs : s.Inv) (hph : s.phase = .mark) (h : execPMark s = .next t) : t.Inv := by
  obtain ⟨⟨hT, hB, hM, hcode⟩, hphase⟩ := hs.at_phase hph (by decide)
  simp only [State.phaseInv, hph] at hphase
  obtain ⟨-, heq⟩ := inRange_eq_next.mp h
  cases heq
  exact .of_clean (by simp) ⟨hT, hB, Mem.wf_write hM _ _, hcode⟩ hphase

theorem inv_of_execPLen {s t : State} (hs : s.Inv) (hph : s.phase = .len) (h : execPLen s = .next t) : t.Inv := by
  obtain ⟨⟨hT, hB, hM, hcode⟩, hphase⟩ := hs.at_phase hph (by decide)
  simp only [State.phaseInv, hph] at hphase
  obtain ⟨-, heq⟩ := inRange_eq_next.mp h
  cases heq
  exact .of_clean (by simp) ⟨hT, hB, Mem.wf_write hM _ _, hcode⟩ hphase

theorem inv_of_execPCheck {s t : State} (hs : s.Inv) (hph : s.phase = .check) (h : execPCheck s = .next t) :
    t.Inv := by
  obtain ⟨hclean, hphase⟩ := hs.at_phase hph (by decide)
  simp only [State.phaseInv, hph] at hphase
  unfold execPCheck at h
  split_ifs at h <;> cases h
  · exact hs.enterFault (by decide)
  · exact .of_clean (by simp) hclean hphase

theorem blocksFor_pos (nb : Nat) : 0 < blocksFor nb := Nat.succ_pos _

theorem inv_of_execCInit {s t : State} (hs : s.Inv) (hph : s.phase = .init) (h : execCInit s = .next t) : t.Inv := by
  obtain ⟨hclean, hphase⟩ := hs.at_phase hph (by decide)
  simp only [State.phaseInv, hph] at hphase
  cases h
  have hpos : 0 < s.nblk := by
    obtain ⟨⟨-, -, hnblk, -⟩, -⟩ := hphase
    rw [hnblk]
    exact blocksFor_pos s.nb
  exact .of_clean (by simp) hclean ⟨hphase, hpos⟩

theorem inv_of_execCLoad {s t : State} (hs : s.Inv) (hph : s.phase = .load) (h : execCLoad s = .next t) : t.Inv := by
  obtain ⟨hclean, hphase⟩ := hs.at_phase hph (by decide)
  simp only [State.phaseInv, hph] at hphase
  obtain ⟨hpacked, hblk⟩ := hphase
  obtain ⟨-, heq⟩ := inRange_eq_next.mp h
  cases heq
  exact .of_clean (by simp) hclean ⟨hpacked, hblk, Nat.le_refl 16, (by decide : 16 < 64)⟩

theorem inv_of_execCExpand {s t : State} (hs : s.Inv) (hph : s.phase = .expand) (h : execCExpand s = .next t) :
    t.Inv := by
  obtain ⟨hclean, hphase⟩ := hs.at_phase hph (by decide)
  simp only [State.phaseInv, hph] at hphase
  obtain ⟨hpacked, hblk, hrange⟩ := hphase
  rw [execCExpand, dif_pos hrange] at h
  cases h
  obtain ⟨hlow, hhigh⟩ := hrange
  by_cases hlast : s.t = 63
  · simp only [if_pos hlast]
    exact .of_clean (by simp) hclean ⟨hpacked, hblk, (by decide : 0 < 64)⟩
  · have hnext : 16 ≤ s.t + 1 ∧ s.t + 1 < 64 := by omega
    simp only [if_neg hlast]
    exact .of_clean (by simp) hclean ⟨hpacked, hblk, hnext⟩

theorem inv_of_execCRound {s t : State} (hs : s.Inv) (hph : s.phase = .round) (h : execCRound s = .next t) :
    t.Inv := by
  obtain ⟨hclean, hphase⟩ := hs.at_phase hph (by decide)
  simp only [State.phaseInv, hph] at hphase
  obtain ⟨hpacked, hblk, hrange⟩ := hphase
  rw [execCRound, dif_pos hrange] at h
  cases h
  by_cases hlast : s.t = 63
  · simp only [if_pos hlast]
    exact .of_clean (by simp) hclean ⟨hpacked, hblk⟩
  · have hnext : s.t + 1 < 64 := by omega
    simp only [if_neg hlast]
    exact .of_clean (by simp) hclean ⟨hpacked, hblk, hnext⟩

theorem inv_of_execCAdd {s t : State} (hs : s.Inv) (hph : s.phase = .add) (h : execCAdd s = .next t) : t.Inv := by
  obtain ⟨hclean, hphase⟩ := hs.at_phase hph (by decide)
  simp only [State.phaseInv, hph] at hphase
  obtain ⟨hpacked, hblk⟩ := hphase
  cases h
  by_cases hlast : s.blk + 1 = s.nblk
  · simp only [if_pos hlast]
    exact .of_clean (by simp) hclean ⟨hpacked, hlast, (by decide : 0 < 64)⟩
  · simp only [if_neg hlast]
    exact .of_clean (by simp) hclean ⟨hpacked, lt_of_le_of_ne hblk hlast⟩

theorem inv_of_execXNib {s t : State} (hs : s.Inv) (hph : s.phase = .hex) (h : execXNib s = .next t) : t.Inv := by
  obtain ⟨hclean, hphase⟩ := hs.at_phase hph (by decide)
  simp only [State.phaseInv, hph] at hphase
  obtain ⟨hpacked, hblk, hrange⟩ := hphase
  rw [execXNib, dif_pos hrange] at h
  cases h
  by_cases hlast : s.p = 63
  · simp only [if_pos hlast]
    exact .of_clean (by simp) hclean ⟨hpacked, hblk, hlast⟩
  · have hnext : s.p + 1 < 64 := by omega
    simp only [if_neg hlast]
    exact .of_clean (by simp) hclean ⟨hpacked, hblk, hnext⟩

/-- The engine's turn keeps the invariant: in the waiting phases nothing moves, in every other the phase's operation
runs. -/
theorem inv_of_engineTurn {s t : State} (hs : s.Inv) (h : engineTurn s = .next t) : t.Inv := by
  have waits (hw : s.phase = .idle ∨ s.phase = .done ∨ s.phase = .fault) : t.Inv := by
    rw [engineTurn_waiting hw] at h
    cases h
    exact hs
  cases hph : s.phase with
  | idle => exact waits (.inl hph)
  | enc => exact inv_of_engineTurn_enc hs hph h
  | size => exact inv_of_execPSize hs hph (engineTurn_size hph ▸ h)
  | pack => exact inv_of_execPPack hs hph (engineTurn_pack hph ▸ h)
  | mark => exact inv_of_execPMark hs hph (engineTurn_mark hph ▸ h)
  | len => exact inv_of_execPLen hs hph (engineTurn_len hph ▸ h)
  | check => exact inv_of_execPCheck hs hph (engineTurn_check hph ▸ h)
  | init => exact inv_of_execCInit hs hph (engineTurn_init hph ▸ h)
  | load => exact inv_of_execCLoad hs hph (engineTurn_load hph ▸ h)
  | expand => exact inv_of_execCExpand hs hph (engineTurn_expand hph ▸ h)
  | round => exact inv_of_execCRound hs hph (engineTurn_round hph ▸ h)
  | add => exact inv_of_execCAdd hs hph (engineTurn_add hph ▸ h)
  | hex => exact inv_of_execXNib hs hph (engineTurn_hex hph ▸ h)
  | done => exact waits (.inr (.inl hph))
  | fault => exact waits (.inr (.inr hph))

theorem inv_of_hostTurn {p : Packet} {s t : State} (hs : s.Inv) (h : hostTurn p s = .next t) : t.Inv := by
  obtain hsame | ⟨-, rfl⟩ | ⟨text, -, -, rfl⟩ := hostTurn_cases h
  · exact hs.of_sameEngine hsame
  · exact s.inv_afterReset
  · exact hs.latch text

/-- Settles O45: nothing is listed in the buffers, the phase is IDLE and no fault is recorded. -/
theorem resetStateMeetsInvariant : Obligations.ResetStateMeetsInvariant :=
  State.Inv.of_clean (by decide) ⟨rfl, rfl, rfl, rfl⟩ trivial

/-- Settles O46, by whose turn it is. -/
theorem stepKeepsInvariant : Obligations.StepKeepsInvariant := by
  intro s t hs h
  match hagenda : s.agenda with
  | [] => exact inv_of_engineTurn hs (step_of_agenda_nil hagenda ▸ h)
  | .engine :: rest => exact inv_of_engineTurn (hs.withAgenda rest) (step_of_engine_turn hagenda ▸ h)
  | .host p :: rest => exact inv_of_hostTurn (hs.withAgenda rest) (step_of_host_turn hagenda ▸ h)
  | .poll :: rest =>
    rw [step_of_poll_turn hagenda] at h
    exact (hs.withAgenda rest).of_sameEngine (sameEngine_of_pollTurn h)

end Sys2Proof.Machine
end

section
/-! PROOFS. What an invocation shows depends on its text only (R38, R189): two engines that accepted the same text stay
in lockstep, because every operation reads only registers that the invocation has already written. -/

namespace Sys2Proof.Machine

open Claims

/-! ### Runs -/

/-- A run of one step more begins with a step. -/
theorem run_succ_eq_next {k : Nat} {s t : State} :
    Host.Core.run core (k + 1) s = .next t ↔ ∃ s', step s = .next s' ∧ Host.Core.run core k s' = .next t := by
  have hcore : core.step s = step s := rfl
  simp only [Host.Core.run, hcore]
  cases step s <;> simp

theorem decode_encode_start (text : List CodeUnit) : decode (encode (.start text)) = .instr (.start text) := by
  simp [decode, encode, Format.widths, decodeCommand]

/-- The first step of an invocation latches the text (R182). -/
theorem step_of_aboutToStart {s : State} {text : List CodeUnit} (h : aboutToStart s text) :
    step s = .next ((s.withAgenda []).latch text) := by
  obtain ⟨hready, hagenda, hfits⟩ := h
  have hfmt : hostFormat (encode (.start text)).format = true := rfl
  rw [step_of_host_turn hagenda, hostTurn, if_pos hfmt, runPacket, decode_encode_start]
  simp [exec, execStart, hfits, hready]

/-! ### Two engines in the same invocation -/

/-- The text and the Byte Stream, written from `START` on. -/
def sameText (s u : State) : Prop := u.T = s.T ∧ u.n = s.n ∧ u.i = s.i ∧ u.B = s.B ∧ u.nb = s.nb

/-- The sizes and the Word Block Array, written from `P.SIZE` on. -/
def sameBlocks (s u : State) : Prop := u.L = s.L ∧ u.nblk = s.nblk ∧ u.N = s.N ∧ u.M = s.M ∧ u.j = s.j

/-- The Hash State and the block counter, written from `C.INIT` on. -/
def sameHash (s u : State) : Prop := u.H = s.H ∧ u.blk = s.blk

/-- The first `t` words of the schedule. -/
def sameSchedule (s u : State) : Prop := ∀ (k : Nat) (_ : k < 64), k < s.t → u.W[k] = s.W[k]

/-- The first `p` characters of the Hex String. -/
def sameChars (s u : State) : Prop := ∀ (k : Nat) (_ : k < 64), k < s.p → u.X[k] = s.X[k]

/-- The two engines hold the same in every register that the invocation has written by the phase of the first and may
still read. -/
def sameWritten (s u : State) : Prop :=
  match s.phase with
  | .idle | .fault => True
  | .enc | .size => sameText s u
  | .pack | .mark => sameText s u ∧ sameBlocks s u
  | .len | .check | .init => sameBlocks s u
  | .load => sameBlocks s u ∧ sameHash s u
  | .expand => sameBlocks s u ∧ sameHash s u ∧ u.v = s.v ∧ u.t = s.t ∧ sameSchedule s u
  | .round => sameBlocks s u ∧ sameHash s u ∧ u.v = s.v ∧ u.t = s.t ∧ u.W = s.W
  | .add => sameBlocks s u ∧ sameHash s u ∧ u.v = s.v
  | .hex => u.H = s.H ∧ u.p = s.p ∧ sameChars s u
  | .done => u.X = s.X

/-- Two engines, with no turn listed, at the same point of the same invocation. -/
structure InStep (s u : State) : Prop where
  agenda_left : s.agenda = []
  agenda_right : u.agenda = []
  phase_eq : u.phase = s.phase
  fcode_eq : u.fcode = s.fcode
  written : sameWritten s u

/-- If the first meaning answers a next state, so does the second, and the two states are in step. -/
def Lockstep (o o' : Result) : Prop := ∀ t, o = .next t → ∃ r, o' = .next r ∧ InStep t r

theorem Lockstep.next {t r : State} (h : InStep t r) : Lockstep (.next t) (.next r) := by
  rintro _ ⟨⟩
  exact ⟨r, rfl, h⟩

theorem Lockstep.inRange {sp : Space} {k len : Nat} {o o' : Result} (h : Lockstep o o') :
    Lockstep (inRange sp k len o) (inRange sp k len o') := by
  intro t ht
  obtain ⟨hk, ho⟩ := inRange_eq_next.mp ht
  rw [inRange_of_lt hk]
  exact h t ho

/-- Outside the index space nothing is answered, so only the inside is to be compared. -/
theorem Lockstep.dite {c : Prop} [Decidable c] {f : Fault} {o o' : c → Result} (h : ∀ hc, Lockstep (o hc) (o' hc)) :
    Lockstep (if hc : c then o hc else .fault f) (if hc : c then o' hc else .fault f) := by
  by_cases hc : c
  · simpa only [dif_pos hc] using h hc
  · simp only [dif_neg hc]
    rintro _ ⟨⟩

theorem Lockstep.ite {c : Prop} [Decidable c] {a a' b b' : Result} (ha : Lockstep a a') (hb : Lockstep b b') :
    Lockstep (if c then a else b) (if c then a' else b') := by
  by_cases hc : c
  · simpa only [if_pos hc] using ha
  · simpa only [if_neg hc] using hb

theorem InStep.enterFault {s u : State} (h : InStep s u) (c : FCode) : InStep (s.enterFault c) (u.enterFault c) := by
  obtain ⟨hs, hu, -, -, -⟩ := h
  exact ⟨hs, hu, rfl, rfl, trivial⟩

/-! ### The engine's operations on two engines in step -/

theorem lockstep_appendAdvance {s u : State} (h : InStep s u) (hph : s.phase = .enc) (out : List Byte) :
    Lockstep (appendAdvance out s) (appendAdvance out u) := by
  obtain ⟨hs, hu, -, hf, hw⟩ := id h
  simp only [sameWritten, hph] at hw
  obtain ⟨hT, hn, hi, hB, hnb⟩ := hw
  simp only [appendAdvance, hT, hn, hi, hB, hnb, raise_eq]
  refine .inRange (.ite (.next (h.enterFault _)) (.next ⟨hs, hu, rfl, hf, ?_⟩))
  by_cases hend : s.i + (resolve s.T s.n s.i).2 = s.n
  · simp only [if_pos hend]
    exact ⟨rfl, rfl, rfl, rfl, rfl⟩
  · simp only [if_neg hend]
    exact ⟨rfl, rfl, rfl, rfl, rfl⟩

theorem lockstep_execPSize {s u : State} (h : InStep s u) (hph : s.phase = .size) :
    Lockstep (execPSize s) (execPSize u) := by
  obtain ⟨hs, hu, -, hf, hw⟩ := h
  simp only [sameWritten, hph] at hw
  obtain ⟨hT, hn, hi, hB, hnb⟩ := hw
  simp only [execPSize, hnb]
  refine .next ⟨hs, hu, rfl, hf, ?_⟩
  by_cases hzero : s.nb = 0 <;> simp [sameWritten, sameText, sameBlocks, hzero, hT, hn, hi, hB]

theorem lockstep_execPPack {s u : State} (h : InStep s u) (hph : s.phase = .pack) :
    Lockstep (execPPack s) (execPPack u) := by
  obtain ⟨hs, hu, -, hf, hw⟩ := h
  simp only [sameWritten, hph] at hw
  obtain ⟨⟨hT, hn, hi, hB, hnb⟩, hL, hnblk, hN, hM, hj⟩ := hw
  simp only [execPPack, hB, hnb, hN, hM, hj]
  refine .inRange (.inRange (.next ⟨hs, hu, rfl, hf, ?_⟩))
  by_cases hlast : s.j + 1 = s.nb <;> simp [sameWritten, sameText, sameBlocks, hlast, hT, hn, hi, hL, hnblk]

theorem lockstep_execPMark {s u : State} (h : InStep s u) (hph : s.phase = .mark) :
    Lockstep (execPMark s) (execPMark u) := by
  obtain ⟨hs, hu, -, hf, hw⟩ := h
  simp only [sameWritten, hph] at hw
  obtain ⟨⟨-, -, -, -, hnb⟩, hL, hnblk, hN, hM, hj⟩ := hw
  simp only [execPMark, hnb, hN, hM]
  exact .inRange (.next ⟨hs, hu, rfl, hf, hL, hnblk, rfl, rfl, hj⟩)

theorem lockstep_execPLen {s u : State} (h : InStep s u) (hph : s.phase = .len) :
    Lockstep (execPLen s) (execPLen u) := by
  obtain ⟨hs, hu, -, hf, hw⟩ := h
  simp only [sameWritten, hph] at hw
  obtain ⟨hL, hnblk, hN, hM, hj⟩ := hw
  simp only [execPLen, hL, hN, hM]
  exact .inRange (.next ⟨hs, hu, rfl, hf, rfl, hnblk, rfl, rfl, hj⟩)

theorem lockstep_execPCheck {s u : State} (h : InStep s u) (hph : s.phase = .check) :
    Lockstep (execPCheck s) (execPCheck u) := by
  obtain ⟨hs, hu, -, hf, hw⟩ := id h
  simp only [sameWritten, hph] at hw
  obtain ⟨hL, hnblk, hN, hM, hj⟩ := hw
  simp only [execPCheck, hN, raise_eq]
  exact .ite (.next (h.enterFault _)) (.next ⟨hs, hu, rfl, hf, hL, hnblk, rfl, hM, hj⟩)

theorem lockstep_execCInit {s u : State} (h : InStep s u) (hph : s.phase = .init) :
    Lockstep (execCInit s) (execCInit u) := by
  obtain ⟨hs, hu, -, hf, hw⟩ := h
  simp only [sameWritten, hph] at hw
  exact .next ⟨hs, hu, rfl, hf, hw, rfl, rfl⟩

theorem lockstep_execCLoad {s u : State} (h : InStep s u) (hph : s.phase = .load) :
    Lockstep (execCLoad s) (execCLoad u) := by
  obtain ⟨hs, hu, -, hf, hw⟩ := h
  simp only [sameWritten, hph] at hw
  obtain ⟨⟨hL, hnblk, hN, hM, hj⟩, hH, hblk⟩ := hw
  simp only [execCLoad, hblk, hN, hM, hH]
  refine .inRange (.next ⟨hs, hu, rfl, hf, ⟨hL, hnblk, rfl, rfl, hj⟩, ⟨rfl, rfl⟩, rfl, rfl, ?_⟩)
  intro k hk hwritten
  simp [show k < 16 from hwritten]

/-- The recurrence reads words below `t` only (R143). -/
theorem scheduleWord_congr {W W' : Vector Word 64} {t : Nat} (ht : 16 ≤ t ∧ t < 64)
    (h : ∀ (k : Nat) (_ : k < 64), k < t → W'[k] = W[k]) : scheduleWord W' t ht = scheduleWord W t ht := by
  obtain ⟨hlow, hhigh⟩ := ht
  unfold scheduleWord
  rw [h (t - 2) (by omega) (by omega), h (t - 7) (by omega) (by omega), h (t - 15) (by omega) (by omega),
    h (t - 16) (by omega) (by omega)]

/-- Writing the same element at `t` extends agreement below `t` by one. -/
theorem getElem_set_congr {α : Type} {n t : Nat} {V V' : Vector α n} {x : α} (ht : t < n)
    (h : ∀ (k : Nat) (_ : k < n), k < t → V'[k] = V[k]) (k : Nat) (hk : k < n) (hlt : k < t + 1) :
    (V'.set t x ht)[k] = (V.set t x ht)[k] := by
  by_cases heq : t = k
  · subst heq
    simp
  · simp [heq, h k hk (by omega)]

theorem lockstep_execCExpand {s u : State} (h : InStep s u) (hph : s.phase = .expand) :
    Lockstep (execCExpand s) (execCExpand u) := by
  obtain ⟨hs, hu, -, hf, hw⟩ := h
  simp only [sameWritten, hph] at hw
  obtain ⟨hblocks, hhash, hv, ht, hW⟩ := hw
  simp only [execCExpand, ht]
  refine .dite fun hrange => .next ⟨hs, hu, rfl, hf, ?_⟩
  have hW' := getElem_set_congr (x := scheduleWord s.W s.t hrange) hrange.2 hW
  rw [scheduleWord_congr hrange hW]
  by_cases hlast : s.t = 63
  · simp only [if_pos hlast]
    exact ⟨hblocks, hhash, hv, rfl, Vector.ext fun k hk => hW' k hk (by omega)⟩
  · simp only [if_neg hlast]
    exact ⟨hblocks, hhash, hv, rfl, hW'⟩

theorem lockstep_execCRound {s u : State} (h : InStep s u) (hph : s.phase = .round) :
    Lockstep (execCRound s) (execCRound u) := by
  obtain ⟨hs, hu, -, hf, hw⟩ := h
  simp only [sameWritten, hph] at hw
  obtain ⟨hblocks, hhash, hv, ht, hW⟩ := hw
  simp only [execCRound, hv, ht, hW]
  refine .dite fun hrange => .next ⟨hs, hu, rfl, hf, ?_⟩
  by_cases hlast : s.t = 63
  · simp only [if_pos hlast]
    exact ⟨hblocks, hhash, rfl⟩
  · simp only [if_neg hlast]
    exact ⟨hblocks, hhash, rfl, rfl, rfl⟩

theorem lockstep_execCAdd {s u : State} (h : InStep s u) (hph : s.phase = .add) :
    Lockstep (execCAdd s) (execCAdd u) := by
  obtain ⟨hs, hu, -, hf, hw⟩ := h
  simp only [sameWritten, hph] at hw
  obtain ⟨⟨hL, hnblk, hN, hM, hj⟩, ⟨hH, hblk⟩, hv⟩ := hw
  simp only [execCAdd, hH, hv, hblk, hnblk]
  refine .next ⟨hs, hu, rfl, hf, ?_⟩
  by_cases hlast : s.blk + 1 = s.nblk
  · simp only [if_pos hlast]
    exact ⟨rfl, rfl, fun k _ hk => absurd hk (Nat.not_lt_zero k)⟩
  · simp only [if_neg hlast]
    exact ⟨⟨hL, rfl, hN, hM, hj⟩, rfl, rfl⟩

theorem lockstep_execXNib {s u : State} (h : InStep s u) (hph : s.phase = .hex) :
    Lockstep (execXNib s) (execXNib u) := by
  obtain ⟨hs, hu, -, hf, hw⟩ := h
  simp only [sameWritten, hph] at hw
  obtain ⟨hH, hp, hX⟩ := hw
  simp only [execXNib, hH, hp]
  refine .dite fun hrange => .next ⟨hs, hu, rfl, hf, ?_⟩
  have hX' := getElem_set_congr (x := hexchar (nib s.H ⟨s.p, hrange⟩)) hrange hX
  by_cases hlast : s.p = 63
  · simp only [if_pos hlast]
    exact Vector.ext fun k hk => hX' k hk (by omega)
  · simp only [if_neg hlast]
    exact ⟨rfl, rfl, hX'⟩

theorem lockstep_engineTurn_enc {s u : State} (h : InStep s u) (hph : s.phase = .enc) :
    Lockstep (engineTurn s) (engineTurn u) := by
  have hu : u.phase = .enc := h.phase_eq.trans hph
  have hw := h.written
  simp only [sameWritten, hph] at hw
  obtain ⟨hT, hn, hi, -, -⟩ := hw
  by_cases hin : s.i < s.n
  · rw [engineTurn_enc hph hin, engineTurn_enc hu (by rwa [hi, hn]), hT, hn, hi]
    exact lockstep_appendAdvance h hph _
  · rw [engineTurn_enc_of_not_lt hph hin]
    rintro _ ⟨⟩

/-- The turns of two engines in step lead to states in step. -/
theorem lockstep_engineTurn {s u : State} (h : InStep s u) : Lockstep (engineTurn s) (engineTurn u) := by
  have hu : u.phase = s.phase := h.phase_eq
  have waits (hw : s.phase = .idle ∨ s.phase = .done ∨ s.phase = .fault) :
      Lockstep (engineTurn s) (engineTurn u) := by
    rw [engineTurn_waiting hw, engineTurn_waiting (by rwa [hu])]
    exact .next h
  cases hph : s.phase with
  | idle => exact waits (.inl hph)
  | enc => exact lockstep_engineTurn_enc h hph
  | size => exact engineTurn_size hph ▸ engineTurn_size (hu.trans hph) ▸ lockstep_execPSize h hph
  | pack => exact engineTurn_pack hph ▸ engineTurn_pack (hu.trans hph) ▸ lockstep_execPPack h hph
  | mark => exact engineTurn_mark hph ▸ engineTurn_mark (hu.trans hph) ▸ lockstep_execPMark h hph
  | len => exact engineTurn_len hph ▸ engineTurn_len (hu.trans hph) ▸ lockstep_execPLen h hph
  | check => exact engineTurn_check hph ▸ engineTurn_check (hu.trans hph) ▸ lockstep_execPCheck h hph
  | init => exact engineTurn_init hph ▸ engineTurn_init (hu.trans hph) ▸ lockstep_execCInit h hph
  | load => exact engineTurn_load hph ▸ engineTurn_load (hu.trans hph) ▸ lockstep_execCLoad h hph
  | expand => exact engineTurn_expand hph ▸ engineTurn_expand (hu.trans hph) ▸ lockstep_execCExpand h hph
  | round => exact engineTurn_round hph ▸ engineTurn_round (hu.trans hph) ▸ lockstep_execCRound h hph
  | add => exact engineTurn_add hph ▸ engineTurn_add (hu.trans hph) ▸ lockstep_execCAdd h hph
  | hex => exact engineTurn_hex hph ▸ engineTurn_hex (hu.trans hph) ▸ lockstep_execXNib h hph
  | done => exact waits (.inr (.inl hph))
  | fault => exact waits (.inr (.inr hph))

/-- Engines in step stay in step through any number of steps. -/
theorem run_keeps_inStep {k : Nat} {s u t : State} (h : InStep s u) (hrun : Host.Core.run core k s = .next t) :
    ∃ r, Host.Core.run core k u = .next r ∧ InStep t r := by
  induction k generalizing s u with
  | zero =>
    cases hrun
    exact ⟨u, rfl, h⟩
  | succ k ih =>
    obtain ⟨s', hs, hrest⟩ := run_succ_eq_next.mp hrun
    rw [step_of_agenda_nil h.agenda_left] at hs
    obtain ⟨u', hu, h'⟩ := lockstep_engineTurn h s' hs
    rw [← step_of_agenda_nil h.agenda_right] at hu
    obtain ⟨r, hr, hend⟩ := ih h' hrest
    exact ⟨r, run_succ_eq_next.mpr ⟨u', hu, hr⟩, hend⟩

/-- Latching the same text brings any two engines in step (R182). -/
theorem inStep_latch (s u : State) (text : List CodeUnit) :
    InStep ((s.withAgenda []).latch text) ((u.withAgenda []).latch text) := by
  refine ⟨rfl, rfl, rfl, rfl, ?_⟩
  by_cases hempty : text.length = 0 <;> simp [sameWritten, sameText, hempty]

/-- Settles O59: the first step brings the two engines in step, and in DONE that includes the whole Hex String. -/
theorem resultDependsOnTextOnly : Obligations.ResultDependsOnTextOnly := by
  intro s u text hs hu k t hk hrun
  obtain ⟨k, rfl⟩ := Nat.exists_eq_add_of_le' hk
  obtain ⟨s', hstep, hrest⟩ := run_succ_eq_next.mp hrun
  rw [step_of_aboutToStart hs] at hstep
  cases hstep
  obtain ⟨r, hr, hend⟩ := run_keeps_inStep (inStep_latch s u text) hrest
  refine ⟨r, run_succ_eq_next.mpr ⟨_, step_of_aboutToStart hu, hr⟩, hend.phase_eq, hend.fcode_eq, fun hdone => ?_⟩
  simpa only [sameWritten, hdone] using hend.written

end Sys2Proof.Machine
end

section
/-! PROOFS. When an operation stops for want of an element: exactly where its index lies outside its space (R50, R68).
Read backwards that is O44, read forwards it is why the invariant admits no stop (O47). -/

namespace Sys2Proof.Machine

/-- A checked access stops outside its space, or later where what follows it stops. -/
theorem inRange_eq_fault {sp : Space} {k len : Nat} {r : Result} {f : Fault} :
    inRange sp k len r = .fault f ↔ (len ≤ k ∧ f = .outOfRange sp) ∨ (k < len ∧ r = .fault f) := by
  by_cases h : k < len
  · simp [inRange_of_lt h, h]
  · simp [inRange_of_not_lt h, h, Nat.le_of_not_lt h, eq_comm]

/-- A last access stops exactly outside its space. -/
theorem inRange_next_eq_fault {sp : Space} {k len : Nat} {t : State} {f : Fault} :
    inRange sp k len (.next t) = .fault f ↔ len ≤ k ∧ f = .outOfRange sp := by
  simp [inRange_eq_fault]

/-- A check on a condition stops exactly where the condition fails. -/
theorem dite_next_eq_fault {c : Prop} [Decidable c] {sp : Space} {t : c → State} {f : Fault} :
    (if h : c then .next (t h) else .fault (.outOfRange sp) : Result) = .fault f ↔ ¬ c ∧ f = .outOfRange sp := by
  by_cases h : c <;> simp [h, eq_comm]

/-- Past the access to `T[i]` the tail of R108 always goes on: fault entry is a next state. -/
theorem appendAdvance_eq_fault {out : List Byte} {s : State} {f : Fault} :
    appendAdvance out s = .fault f ↔ s.n ≤ s.i ∧ f = .outOfRange .T := by
  rw [appendAdvance, inRange_eq_fault, or_iff_left]
  rintro ⟨-, h⟩
  split_ifs at h
  cases h

theorem execUDrop_eq_fault {cp : BitVec 22} {s : State} {f : Fault} :
    execUDrop cp s = .fault f ↔ s.n ≤ s.i ∧ f = .outOfRange .T := inRange_next_eq_fault

theorem execPPack_eq_fault {s : State} {f : Fault} :
    execPPack s = .fault f ↔
      (s.nb ≤ s.j ∧ f = .outOfRange .B) ∨ (s.j < s.nb ∧ s.N ≤ s.j / 4 ∧ f = .outOfRange .M) := by
  rw [execPPack, inRange_eq_fault, inRange_next_eq_fault]

theorem execPMark_eq_fault {s : State} {f : Fault} :
    execPMark s = .fault f ↔ s.N ≤ s.nb / 4 ∧ f = .outOfRange .M := inRange_next_eq_fault

/-- There is a last word unless there is no word. -/
theorem execPLen_eq_fault {s : State} {f : Fault} :
    execPLen s = .fault f ↔ s.N = 0 ∧ f = .outOfRange .M := by
  rw [execPLen, inRange_next_eq_fault, show s.N ≤ s.N - 1 ↔ s.N = 0 by omega]

theorem execCLoad_eq_fault {s : State} {f : Fault} :
    execCLoad s = .fault f ↔ s.N ≤ 16 * s.blk + 15 ∧ f = .outOfRange .M := inRange_next_eq_fault

theorem execCExpand_eq_fault {s : State} {f : Fault} :
    execCExpand s = .fault f ↔ (s.t < 16 ∨ 63 < s.t) ∧ f = .outOfRange .W := by
  rw [execCExpand, dite_next_eq_fault, show ¬ (16 ≤ s.t ∧ s.t < 64) ↔ s.t < 16 ∨ 63 < s.t by omega]

theorem execCRound_eq_fault {s : State} {f : Fault} :
    execCRound s = .fault f ↔ 63 < s.t ∧ f = .outOfRange .K := by
  rw [execCRound, dite_next_eq_fault, Nat.not_lt, Nat.succ_le_iff]

theorem execXNib_eq_fault {s : State} {f : Fault} :
    execXNib s = .fault f ↔ 63 < s.p ∧ f = .outOfRange .X := by
  rw [execXNib, dite_next_eq_fault, Nat.not_lt, Nat.succ_le_iff]

/-- Settles O44, one operation at a time: each stops where its index is outside its space. -/
theorem brokenPreconditionsStop : Obligations.BrokenPreconditionsStop := by
  intro s
  refine ⟨fun hi cp wide => ?_, fun hj => execPPack_eq_fault.mpr (.inl ⟨hj, rfl⟩),
    fun hj hN => execPPack_eq_fault.mpr (.inr ⟨hj, hN, rfl⟩), fun hN => execPMark_eq_fault.mpr ⟨hN, rfl⟩,
    fun hN => execPLen_eq_fault.mpr ⟨hN, rfl⟩, fun hN => execCLoad_eq_fault.mpr ⟨hN, rfl⟩,
    fun ht => execCExpand_eq_fault.mpr ⟨ht, rfl⟩, fun ht => execCRound_eq_fault.mpr ⟨ht, rfl⟩,
    fun hp => execXNib_eq_fault.mpr ⟨hp, rfl⟩⟩
  have stops (out : List Byte) : appendAdvance out s = .fault (.outOfRange .T) :=
    appendAdvance_eq_fault.mpr ⟨hi, rfl⟩
  exact ⟨stops _, stops _, stops _, stops _, execUDrop_eq_fault (cp := wide).mpr ⟨hi, rfl⟩⟩

end Sys2Proof.Machine
end

section
/-! PROOFS. Under the invariant no index lies outside its space (R55, R68): the bounds of each phase are what its
operation checks. The host's packets and the polls of `DIGEST` access no space. -/

namespace Sys2Proof.Machine

/-- The blocks have room for the bytes, the marker and the length (R121). -/
theorem State.sized.room {s : State} (h : s.sized) : s.nb + 8 < 4 * s.N := by
  obtain ⟨-, -, hnblk, hN⟩ := h
  rw [hN, hnblk, blocksFor]
  omega

/-- The words of a block that is counted are inside `M`. -/
theorem State.packed.block_inside {s : State} (h : s.packed) (hblk : s.blk < s.nblk) : 16 * s.blk + 15 < s.N := by
  obtain ⟨⟨-, -, -, hN⟩, -⟩ := h
  omega

/-- The engine's own faults are next states (R204), so only an access could stop the engine's turn, and the condition of
each phase puts the index of its operation inside. -/
theorem engineTurn_ne_fault {s : State} (hs : s.Inv) (f : Fault) : engineTurn s ≠ .fault f := by
  intro h
  have waits (hw : s.phase = .idle ∨ s.phase = .done ∨ s.phase = .fault) : False := by
    rw [engineTurn_waiting hw] at h
    cases h
  obtain ⟨-, -, hphase⟩ := hs
  revert hphase
  unfold State.phaseInv
  cases hph : s.phase with
  | idle => exact fun _ => waits (.inl hph)
  | enc =>
    rintro ⟨hi, -⟩
    obtain ⟨hout, -⟩ := appendAdvance_eq_fault.mp (engineTurn_enc hph hi ▸ h)
    omega
  | size =>
    rw [engineTurn_size hph] at h
    cases h
  | pack =>
    rintro ⟨hsized, hj⟩
    have hroom := hsized.room
    obtain ⟨hout, -⟩ | ⟨-, hout, -⟩ := execPPack_eq_fault.mp (engineTurn_pack hph ▸ h) <;> omega
  | mark =>
    rintro ⟨hsized, -⟩
    have hroom := hsized.room
    obtain ⟨hout, -⟩ := execPMark_eq_fault.mp (engineTurn_mark hph ▸ h)
    omega
  | len =>
    rintro ⟨hsized, -⟩
    have hroom := hsized.room
    obtain ⟨hout, -⟩ := execPLen_eq_fault.mp (engineTurn_len hph ▸ h)
    omega
  | check =>
    rw [engineTurn_check hph, execPCheck] at h
    split_ifs at h
    cases h
  | init =>
    rw [engineTurn_init hph] at h
    cases h
  | load =>
    rintro ⟨hpacked, hblk⟩
    have hinside := hpacked.block_inside hblk
    obtain ⟨hout, -⟩ := execCLoad_eq_fault.mp (engineTurn_load hph ▸ h)
    omega
  | expand =>
    rintro ⟨-, -, hlow, hhigh⟩
    obtain ⟨hout, -⟩ := execCExpand_eq_fault.mp (engineTurn_expand hph ▸ h)
    omega
  | round =>
    rintro ⟨-, -, ht⟩
    obtain ⟨hout, -⟩ := execCRound_eq_fault.mp (engineTurn_round hph ▸ h)
    omega
  | add =>
    rw [engineTurn_add hph] at h
    cases h
  | hex =>
    rintro ⟨-, -, hp⟩
    obtain ⟨hout, -⟩ := execXNib_eq_fault.mp (engineTurn_hex hph ▸ h)
    omega
  | done => exact fun _ => waits (.inr (.inl hph))
  | fault => exact fun _ => waits (.inr (.inr hph))

/-- A row that the host may hand over accesses no space, so it has nothing to stop for. -/
theorem exec_host_row_ne_fault {i : Instr} (hrow : hostFormat (encode i).format = true) (s : State) (f : Fault) :
    exec i s ≠ .fault f := by
  intro h
  cases i with
  | start text =>
    replace h : execStart text s = .fault f := h
    unfold execStart at h
    split_ifs at h
  | rdhex =>
    replace h : execRdhex s = .fault f := h
    unfold execRdhex at h
    split_ifs at h
  | uEnc1 _ | uEnc2 _ | uEnc3 _ | uEnc4 _ | uDrop _ | pSize | pPack | pMark | pLen | pCheck | cInit | cLoad | cExpand
  | cRound | cAdd | xNib => cases hrow
  | reset | rdstat | digest _ | utf8Form1 _ | utf8Form2 _ | utf8Form3 _ | utf8Form4 _ | hexChar0 | hexChar1 | hexChar2
  | hexChar3 | hexChar4 | hexChar5 | hexChar6 | hexChar7 | hexChar8 | hexChar9 | hexCharA | hexCharB | hexCharC
  | hexCharD | hexCharE | hexCharF | status _ _ _ _ => cases h

theorem hostTurn_ne_fault (p : Packet) (s : State) (f : Fault) : hostTurn p s ≠ .fault f := by
  intro h
  unfold hostTurn at h
  split_ifs at h with hfmt
  unfold runPacket at h
  split at h
  · rename_i i hdec
    exact exec_host_row_ne_fault (by rwa [format_of_decode hdec]) s f h
  · cases h

theorem pollTurn_ne_fault (s : State) (f : Fault) : pollTurn s ≠ .fault f := by
  intro h
  unfold pollTurn at h
  split_ifs at h

/-- Settles O47, by whose turn it is: only the engine's turn accesses a space, and there the invariant holds the index
inside. -/
theorem everyIndexIsInRange : Obligations.EveryIndexIsInRange := by
  intro s f hs
  match hagenda : s.agenda with
  | [] => exact step_of_agenda_nil hagenda ▸ engineTurn_ne_fault hs f
  | .engine :: rest => exact step_of_engine_turn hagenda ▸ engineTurn_ne_fault (hs.withAgenda rest) f
  | .host p :: rest => exact step_of_host_turn hagenda ▸ hostTurn_ne_fault p _ f
  | .poll :: rest => exact step_of_poll_turn hagenda ▸ pollTurn_ne_fault _ f

end Sys2Proof.Machine
end

section
/-! PROOFS. Each buffer has one owning stage (R62): what an engine step in a phase leaves unchanged. -/

namespace Sys2Proof.Machine

/-- A check on a condition goes on only where the condition holds. -/
theorem dite_next_eq_next {c : Prop} [Decidable c] {f : Fault} {u : c → State} {t : State} :
    (if h : c then .next (u h) else .fault f : Result) = .next t ↔ ∃ h, u h = t := by
  by_cases h : c <;> simp [h]

/-- From `s` to `t` phase `ph` has written none but the buffers of its own stage. -/
structure WritesOwnBuffers (ph : Phase) (s t : State) : Prop where
  text : t.T = s.T ∧ t.n = s.n
  bytes : ph ≠ .enc → t.B = s.B ∧ t.nb = s.nb
  blocks : ph ≠ .size → ph ≠ .pack → ph ≠ .mark → ph ≠ .len →
    t.M = s.M ∧ t.N = s.N ∧ t.nblk = s.nblk ∧ t.L = s.L
  hash : ph ≠ .init → ph ≠ .add → t.H = s.H
  chars : ph ≠ .hex → t.X = s.X

theorem WritesOwnBuffers.refl (ph : Phase) (s : State) : WritesOwnBuffers ph s s :=
  ⟨⟨rfl, rfl⟩, fun _ => ⟨rfl, rfl⟩, fun _ _ _ _ => ⟨rfl, rfl, rfl, rfl⟩, fun _ _ => rfl, fun _ => rfl⟩

/-- Fault entry keeps every buffer, and so belongs to any phase (R204). -/
theorem WritesOwnBuffers.enterFault (ph : Phase) (s : State) (c : FCode) :
    WritesOwnBuffers ph s (s.enterFault c) := by
  constructor <;> simp

/-- The encoder writes `B` and `nb` (R108). -/
theorem writesOwnBuffers_of_appendAdvance {out : List Byte} {s t : State} (h : appendAdvance out s = .next t) :
    WritesOwnBuffers .enc s t := by
  obtain ⟨-, h⟩ := inRange_eq_next.mp h
  split_ifs at h
  · cases h
    exact .enterFault .enc s _
  · cases h
    constructor <;> simp

/-- `P.SIZE` writes `L`, `nblk`, `N` and `M` (R122). -/
theorem writesOwnBuffers_of_execPSize {s t : State} (h : execPSize s = .next t) : WritesOwnBuffers .size s t := by
  cases h
  constructor <;> simp

theorem writesOwnBuffers_of_execPPack {s t : State} (h : execPPack s = .next t) : WritesOwnBuffers .pack s t := by
  obtain ⟨-, h⟩ := inRange_eq_next.mp h
  obtain ⟨-, h⟩ := inRange_eq_next.mp h
  cases h
  constructor <;> simp

theorem writesOwnBuffers_of_execPMark {s t : State} (h : execPMark s = .next t) : WritesOwnBuffers .mark s t := by
  obtain ⟨-, h⟩ := inRange_eq_next.mp h
  cases h
  constructor <;> simp

theorem writesOwnBuffers_of_execPLen {s t : State} (h : execPLen s = .next t) : WritesOwnBuffers .len s t := by
  obtain ⟨-, h⟩ := inRange_eq_next.mp h
  cases h
  constructor <;> simp

/-- `P.CHECK` writes no buffer, whatever it finds (R126). -/
theorem writesOwnBuffers_of_execPCheck {s t : State} (h : execPCheck s = .next t) : WritesOwnBuffers .check s t := by
  unfold execPCheck at h
  split_ifs at h
  · cases h
    exact .enterFault .check s _
  · cases h
    constructor <;> simp

/-- `C.INIT` writes `H` (R150). -/
theorem writesOwnBuffers_of_execCInit {s t : State} (h : execCInit s = .next t) : WritesOwnBuffers .init s t := by
  cases h
  constructor <;> simp

/-- `C.LOAD` writes registers only, and so do `C.EXPAND` and `C.ROUND` below (R151 to R153). -/
theorem writesOwnBuffers_of_execCLoad {s t : State} (h : execCLoad s = .next t) : WritesOwnBuffers .load s t := by
  obtain ⟨-, h⟩ := inRange_eq_next.mp h
  cases h
  constructor <;> simp

theorem writesOwnBuffers_of_execCExpand {s t : State} (h : execCExpand s = .next t) : WritesOwnBuffers .expand s t := by
  obtain ⟨-, rfl⟩ := dite_next_eq_next.mp h
  constructor <;> simp

theorem writesOwnBuffers_of_execCRound {s t : State} (h : execCRound s = .next t) : WritesOwnBuffers .round s t := by
  obtain ⟨-, rfl⟩ := dite_next_eq_next.mp h
  constructor <;> simp

/-- `C.ADD` writes `H` (R154). -/
theorem writesOwnBuffers_of_execCAdd {s t : State} (h : execCAdd s = .next t) : WritesOwnBuffers .add s t := by
  cases h
  constructor <;> simp

/-- `X.NIB` writes `X` (R172). -/
theorem writesOwnBuffers_of_execXNib {s t : State} (h : execXNib s = .next t) : WritesOwnBuffers .hex s t := by
  obtain ⟨-, rfl⟩ := dite_next_eq_next.mp h
  constructor <;> simp

/-- The engine's turn writes only the buffers of the stage its phase belongs to. -/
theorem writesOwnBuffers_of_engineTurn {s t : State} (h : engineTurn s = .next t) : WritesOwnBuffers s.phase s t := by
  have waits (hw : s.phase = .idle ∨ s.phase = .done ∨ s.phase = .fault) : WritesOwnBuffers s.phase s t := by
    rw [engineTurn_waiting hw] at h
    cases h
    exact .refl s.phase s
  cases hph : s.phase with
  | idle => exact hph ▸ waits (.inl hph)
  | enc =>
    by_cases hi : s.i < s.n
    · exact writesOwnBuffers_of_appendAdvance (engineTurn_enc hph hi ▸ h)
    · rw [engineTurn_enc_of_not_lt hph hi] at h
      cases h
  | size => exact writesOwnBuffers_of_execPSize (engineTurn_size hph ▸ h)
  | pack => exact writesOwnBuffers_of_execPPack (engineTurn_pack hph ▸ h)
  | mark => exact writesOwnBuffers_of_execPMark (engineTurn_mark hph ▸ h)
  | len => exact writesOwnBuffers_of_execPLen (engineTurn_len hph ▸ h)
  | check => exact writesOwnBuffers_of_execPCheck (engineTurn_check hph ▸ h)
  | init => exact writesOwnBuffers_of_execCInit (engineTurn_init hph ▸ h)
  | load => exact writesOwnBuffers_of_execCLoad (engineTurn_load hph ▸ h)
  | expand => exact writesOwnBuffers_of_execCExpand (engineTurn_expand hph ▸ h)
  | round => exact writesOwnBuffers_of_execCRound (engineTurn_round hph ▸ h)
  | add => exact writesOwnBuffers_of_execCAdd (engineTurn_add hph ▸ h)
  | hex => exact writesOwnBuffers_of_execXNib (engineTurn_hex hph ▸ h)
  | done => exact hph ▸ waits (.inr (.inl hph))
  | fault => exact hph ▸ waits (.inr (.inr hph))

/-- Settles O49: with no turn listed the step is the engine's, and a buffer is kept in every phase that is not its
owner's. -/
theorem buffersBelongToStages : Obligations.BuffersBelongToStages := by
  intro s t hnil h
  obtain ⟨⟨hT, hn⟩, hbytes, hblocks, hhash, hchars⟩ :=
    writesOwnBuffers_of_engineTurn (step_of_agenda_nil hnil ▸ h)
  exact ⟨hT, hn, hbytes, hblocks, hhash, hchars⟩

end Sys2Proof.Machine
end

section
/-! PROOFS. Several engines under a schedule (R64, R210). -/

namespace Sys2Proof.Machine

theorem advanceBy_zero : advanceBy 0 = id := rfl

/-- The step that comes first is taken first. -/
theorem advanceBy_succ (k : Nat) : advanceBy (k + 1) = advanceBy k ∘ advance := rfl

/-- Settles O60, by induction on the schedule: its first entry moves the engine it names and no other. -/
theorem enginesAreIndependent : Obligations.EnginesAreIndependent := by
  intro schedule engines k
  induction schedule generalizing engines with
  | nil => simp [runSchedule, advanceBy_zero]
  | cons m rest ih =>
    rw [runSchedule, ih, List.getElem?_modify]
    by_cases hmoves : m = k
    · subst hmoves
      simp [List.count_cons_self, advanceBy_succ]
    · simp [List.count_cons_of_ne hmoves, hmoves]

end Sys2Proof.Machine
end

section
/-! PROOFS. Words as numbers: what a field, a byte and a mask of a word are in arithmetic (R52, R85). -/

namespace Sys2Proof

theorem toNat_append_eq_add {m n : Nat} (x : BitVec m) (y : BitVec n) : (x ++ y).toNat = x.toNat * 2 ^ n + y.toNat := by
  rw [BitVec.toNat_append, ← Nat.shiftLeft_add_eq_or_of_lt y.isLt, Nat.shiftLeft_eq]

theorem toNat_extractLsb'_eq_div_mod {n : Nat} (x : BitVec n) (start len : Nat) :
    (x.extractLsb' start len).toNat = x.toNat / 2 ^ start % 2 ^ len := by
  rw [BitVec.extractLsb'_toNat, Nat.shiftRight_eq_div_pow]

theorem toNat_extractLsb'_zero {n : Nat} (x : BitVec n) (len : Nat) :
    (x.extractLsb' 0 len).toNat = x.toNat % 2 ^ len := by
  rw [toNat_extractLsb'_eq_div_mod, Nat.pow_zero, Nat.div_one]

/-- No bit at or above the width means that the word is a number of that width. -/
theorem shiftRight_eq_zero_iff {w : BitVec 32} {n : Nat} : w >>> n = 0#32 ↔ w.toNat < 2 ^ n := by
  rw [← BitVec.toNat_inj, BitVec.toNat_ushiftRight, Nat.shiftRight_eq_div_pow, BitVec.toNat_ofNat, Nat.zero_mod,
    Nat.div_eq_zero_iff_lt (Nat.two_pow_pos n)]

/-- The byte of a word that starts at bit `8 * k`. -/
def byteOf (w : BitVec 32) (k : Nat) : Byte := w.extractLsb' (8 * k) 8

theorem byteOf_toNat (w : BitVec 32) (k : Nat) : (byteOf w k).toNat = w.toNat / 2 ^ (8 * k) % 256 :=
  toNat_extractLsb'_eq_div_mod w (8 * k) 8

/-- A word matches a mask exactly where each of its four bytes matches the mask's byte. -/
theorem and_eq_iff_bytes {w m v : BitVec 32} :
    w &&& m = v ↔ byteOf w 3 &&& byteOf m 3 = byteOf v 3 ∧ byteOf w 2 &&& byteOf m 2 = byteOf v 2 ∧
      byteOf w 1 &&& byteOf m 1 = byteOf v 1 ∧ byteOf w 0 &&& byteOf m 0 = byteOf v 0 := by
  have hbyteOf (k : Nat) : byteOf (w &&& m) k = byteOf w k &&& byteOf m k := BitVec.extractLsb'_and
  simp only [← hbyteOf, ← BitVec.toNat_inj, byteOf_toNat]
  have hw := (w &&& m).isLt
  have hv := v.isLt
  omega

/-- A continuation byte of R74 to R76: `10` and six bits. -/
theorem continuationByte_iff : ∀ b : Byte, b &&& 0xC0#8 = 0x80#8 ↔ b.toNat / 64 = 2 := by decide

/-- The fixed bit of a one-byte sequence (R73). -/
theorem form1_mask {w : BitVec 32} : w &&& 0x80#32 = 0x00#32 ↔ w.toNat % 256 < 128 := by
  have hlead : ∀ b : Byte, b &&& 0x80#8 = 0x00#8 ↔ b.toNat < 128 := by decide
  rw [and_eq_iff_bytes]
  change byteOf w 3 &&& 0#8 = 0#8 ∧ byteOf w 2 &&& 0#8 = 0#8 ∧ byteOf w 1 &&& 0#8 = 0#8 ∧
    byteOf w 0 &&& 0x80#8 = 0x00#8 ↔ _
  simp [hlead, byteOf_toNat]

/-- The fixed bits of a two-byte sequence (R74). -/
theorem form2_mask {w : BitVec 32} :
    w &&& 0xE0C0#32 = 0xC080#32 ↔ w.toNat / 2 ^ 8 % 256 / 32 = 6 ∧ w.toNat % 256 / 64 = 2 := by
  have hlead : ∀ b : Byte, b &&& 0xE0#8 = 0xC0#8 ↔ b.toNat / 32 = 6 := by decide
  rw [and_eq_iff_bytes]
  change byteOf w 3 &&& 0#8 = 0#8 ∧ byteOf w 2 &&& 0#8 = 0#8 ∧ byteOf w 1 &&& 0xE0#8 = 0xC0#8 ∧
    byteOf w 0 &&& 0xC0#8 = 0x80#8 ↔ _
  simp [hlead, continuationByte_iff, byteOf_toNat]

/-- The fixed bits of a three-byte sequence (R75). -/
theorem form3_mask {w : BitVec 32} :
    w &&& 0xF0C0C0#32 = 0xE08080#32 ↔
      w.toNat / 2 ^ 16 % 256 / 16 = 14 ∧ w.toNat / 2 ^ 8 % 256 / 64 = 2 ∧ w.toNat % 256 / 64 = 2 := by
  have hlead : ∀ b : Byte, b &&& 0xF0#8 = 0xE0#8 ↔ b.toNat / 16 = 14 := by decide
  rw [and_eq_iff_bytes]
  change byteOf w 3 &&& 0#8 = 0#8 ∧ byteOf w 2 &&& 0xF0#8 = 0xE0#8 ∧ byteOf w 1 &&& 0xC0#8 = 0x80#8 ∧
    byteOf w 0 &&& 0xC0#8 = 0x80#8 ↔ _
  simp [hlead, continuationByte_iff, byteOf_toNat]

/-- The fixed bits of a four-byte sequence (R76). -/
theorem form4_mask {w : BitVec 32} :
    w &&& 0xF8C0C0C0#32 = 0xF0808080#32 ↔ w.toNat / 2 ^ 24 % 256 / 8 = 30 ∧ w.toNat / 2 ^ 16 % 256 / 64 = 2 ∧
      w.toNat / 2 ^ 8 % 256 / 64 = 2 ∧ w.toNat % 256 / 64 = 2 := by
  have hlead : ∀ b : Byte, b &&& 0xF8#8 = 0xF0#8 ↔ b.toNat / 8 = 30 := by decide
  rw [and_eq_iff_bytes]
  change byteOf w 3 &&& 0xF8#8 = 0xF0#8 ∧ byteOf w 2 &&& 0xC0#8 = 0x80#8 ∧ byteOf w 1 &&& 0xC0#8 = 0x80#8 ∧
    byteOf w 0 &&& 0xC0#8 = 0x80#8 ↔ _
  simp [hlead, continuationByte_iff, byteOf_toNat]

/-- The fixed bits of a selector that no threshold of R77 narrows: phase ENC (R85). -/
theorem encoderPhase_mask {w : BitVec 32} (h : w.toNat < 2 ^ 25) :
    w &&& 0x1E00000#32 = 0x0200000#32 ↔ w.toNat / 2 ^ 21 = 1 := by
  have hphase : ∀ b : Byte, b &&& 0xE0#8 = 0x20#8 ↔ b.toNat / 32 = 1 := by decide
  have htop : ∀ b : Byte, b &&& 0x01#8 = 0x00#8 ↔ b.toNat % 2 = 0 := by decide
  rw [and_eq_iff_bytes]
  change byteOf w 3 &&& 0x01#8 = 0x00#8 ∧ byteOf w 2 &&& 0xE0#8 = 0x20#8 ∧ byteOf w 1 &&& 0#8 = 0#8 ∧
    byteOf w 0 &&& 0#8 = 0#8 ↔ _
  simp only [BitVec.and_zero, and_true, hphase, htop, byteOf_toNat]
  omega

/-- The fixed bits of the selector of `U.DROP`: phase ENC and the added bit of the code point (R85, R107). -/
theorem dropSelector_mask {w : BitVec 32} (h : w.toNat < 2 ^ 26) :
    w &&& 0x3E00000#32 = 0x0600000#32 ↔ w.toNat / 2 ^ 21 = 3 := by
  have hphase : ∀ b : Byte, b &&& 0xE0#8 = 0x60#8 ↔ b.toNat / 32 = 3 := by decide
  have htop : ∀ b : Byte, b &&& 0x03#8 = 0x00#8 ↔ b.toNat % 4 = 0 := by decide
  rw [and_eq_iff_bytes]
  change byteOf w 3 &&& 0x03#8 = 0x00#8 ∧ byteOf w 2 &&& 0xE0#8 = 0x60#8 ∧ byteOf w 1 &&& 0#8 = 0#8 ∧
    byteOf w 0 &&& 0#8 = 0#8 ↔ _
  simp only [BitVec.and_zero, and_true, hphase, htop, byteOf_toNat]
  omega

end Sys2Proof
end

section
/-! PROOFS. Encoding and decoding are inverse to each other (R84, R85): row by row, the fixed bits of a pattern say where
the operand stands, and the fixed bits and the operand make up the word. -/

namespace Sys2Proof

open Machine

/-! ### The patterns of the byte sequences: fixed bits and fields together are the word -/

/-- The word of `UTF8.FORM1` from its field (R73). -/
def form1Word (a : BitVec 7) : BitVec 32 := (0#1 ++ a).setWidth 32

/-- The word of `UTF8.FORM2` from its fields (R74). -/
def form2Word (a : BitVec 5) (b : BitVec 6) : BitVec 32 := (0b110#3 ++ a ++ 0b10#2 ++ b).setWidth 32

/-- The word of `UTF8.FORM3` from its fields (R75). -/
def form3Word (a : BitVec 4) (b c : BitVec 6) : BitVec 32 := (0b1110#4 ++ a ++ 0b10#2 ++ b ++ 0b10#2 ++ c).setWidth 32

/-- The word of `UTF8.FORM4` from its fields (R76). -/
def form4Word (a : BitVec 3) (b c d : BitVec 6) : BitVec 32 :=
  (0b11110#5 ++ a ++ 0b10#2 ++ b ++ 0b10#2 ++ c ++ 0b10#2 ++ d).setWidth 32

theorem form1Word_toNat (a : BitVec 7) : (form1Word a).toNat = a.toNat := by
  simp only [form1Word, BitVec.toNat_setWidth, toNat_append_eq_add, BitVec.toNat_ofNat]
  omega

theorem form2Word_toNat (a : BitVec 5) (b : BitVec 6) :
    (form2Word a b).toNat = 2 ^ 8 * (0xC0 + a.toNat) + (0x80 + b.toNat) := by
  simp only [form2Word, BitVec.toNat_setWidth, toNat_append_eq_add, BitVec.toNat_ofNat]
  omega

theorem form3Word_toNat (a : BitVec 4) (b c : BitVec 6) :
    (form3Word a b c).toNat = 2 ^ 16 * (0xE0 + a.toNat) + 2 ^ 8 * (0x80 + b.toNat) + (0x80 + c.toNat) := by
  simp only [form3Word, BitVec.toNat_setWidth, toNat_append_eq_add, BitVec.toNat_ofNat]
  omega

theorem form4Word_toNat (a : BitVec 3) (b c d : BitVec 6) :
    (form4Word a b c d).toNat =
      2 ^ 24 * (0xF0 + a.toNat) + 2 ^ 16 * (0x80 + b.toNat) + 2 ^ 8 * (0x80 + c.toNat) + (0x80 + d.toNat) := by
  simp only [form4Word, BitVec.toNat_setWidth, toNat_append_eq_add, BitVec.toNat_ofNat]
  omega

/-! A word of the right width is a pattern's word exactly where the decoder's mask matches and the fields are read there:
read one way it decodes what was encoded, read the other way it encodes what was decoded. -/

theorem eq_form1Word_iff {w : BitVec 32} (h : w.toNat < 2 ^ 8) (a : BitVec 7) :
    w = form1Word a ↔ w &&& 0x80#32 = 0x00#32 ∧ w.extractLsb' 0 7 = a := by
  rw [form1_mask]
  simp only [← BitVec.toNat_inj, form1Word_toNat, toNat_extractLsb'_eq_div_mod]
  omega

theorem eq_form2Word_iff {w : BitVec 32} (h : w.toNat < 2 ^ 16) (a : BitVec 5) (b : BitVec 6) :
    w = form2Word a b ↔ w &&& 0xE0C0#32 = 0xC080#32 ∧ w.extractLsb' 8 5 = a ∧ w.extractLsb' 0 6 = b := by
  rw [form2_mask]
  simp only [← BitVec.toNat_inj, form2Word_toNat, toNat_extractLsb'_eq_div_mod, Nat.pow_zero, Nat.div_one]
  constructor
  · intro hw
    rw [hw]
    omega
  · omega

theorem eq_form3Word_iff {w : BitVec 32} (h : w.toNat < 2 ^ 24) (a : BitVec 4) (b c : BitVec 6) :
    w = form3Word a b c ↔ w &&& 0xF0C0C0#32 = 0xE08080#32 ∧
      w.extractLsb' 16 4 = a ∧ w.extractLsb' 8 6 = b ∧ w.extractLsb' 0 6 = c := by
  rw [form3_mask]
  simp only [← BitVec.toNat_inj, form3Word_toNat, toNat_extractLsb'_eq_div_mod, Nat.pow_zero, Nat.div_one]
  constructor
  · intro hw
    rw [hw]
    omega
  · omega

theorem eq_form4Word_iff {w : BitVec 32} (a : BitVec 3) (b c d : BitVec 6) :
    w = form4Word a b c d ↔ w &&& 0xF8C0C0C0#32 = 0xF0808080#32 ∧
      w.extractLsb' 24 3 = a ∧ w.extractLsb' 16 6 = b ∧ w.extractLsb' 8 6 = c ∧ w.extractLsb' 0 6 = d := by
  have h := w.isLt
  rw [form4_mask]
  simp only [← BitVec.toNat_inj, form4Word_toNat, toNat_extractLsb'_eq_div_mod, Nat.pow_zero, Nat.div_one]
  constructor
  · intro hw
    rw [hw]
    omega
  · omega

/-! ### The selectors with a code point -/

/-- A selector's leading bit stands just above its code point, so the two add up. -/
theorem toNat_or_setWidth {n : Nat} (h : n < 32) (x : BitVec n) :
    (BitVec.ofNat 32 (2 ^ n) ||| x.setWidth 32).toNat = 2 ^ n + x.toNat := by
  have hx := x.isLt
  have hpow : 2 ^ n < 2 ^ 32 := Nat.pow_lt_pow_right (by decide) h
  have hadd := Nat.two_pow_add_eq_or_of_lt hx 1
  rw [BitVec.toNat_or, BitVec.toNat_setWidth, BitVec.toNat_ofNat, Nat.mod_eq_of_lt hpow,
    Nat.mod_eq_of_lt (hx.trans hpow)]
  rwa [Nat.mul_one, eq_comm] at hadd

theorem uDrop_word_toNat (cp : BitVec 22) : (encode (.uDrop cp)).word.toNat = 2 ^ 22 + cp.toNat :=
  toNat_or_setWidth (by decide) cp

/-- The pattern of an encoder row is the engine's selector (R85). -/
theorem encoderPattern_eq (cp : CodePoint) : 0x0200000#32 ||| cp.setWidth 32 = encoderWord cp := by
  rw [← BitVec.toNat_inj, encoderWord_toNat]
  exact toNat_or_setWidth (by decide) cp

/-! ### From an instruction to its packet and back -/

/-! An operand is its fields put together. -/

theorem append_fields2 (c : BitVec 11) : c.extractLsb' 6 5 ++ c.extractLsb' 0 6 = c := by
  simp only [← BitVec.toNat_inj, toNat_append_eq_add, toNat_extractLsb'_eq_div_mod]
  omega

theorem append_fields3 (c : BitVec 16) : c.extractLsb' 12 4 ++ c.extractLsb' 6 6 ++ c.extractLsb' 0 6 = c := by
  simp only [← BitVec.toNat_inj, toNat_append_eq_add, toNat_extractLsb'_eq_div_mod]
  omega

theorem append_fields4 (c : BitVec 21) :
    c.extractLsb' 18 3 ++ c.extractLsb' 12 6 ++ c.extractLsb' 6 6 ++ c.extractLsb' 0 6 = c := by
  simp only [← BitVec.toNat_inj, toNat_append_eq_add, toNat_extractLsb'_eq_div_mod]
  omega

theorem decode_utf8 {nbits : Nat} {w : BitVec 32} (hwidth : nbits ∈ Format.utf8.widths) (hhigh : w >>> nbits = 0#32) :
    decode { format := .utf8, nbits := nbits, word := w } = decodeUtf8 nbits w := by
  simp [decode, hwidth, hhigh]

theorem decode_encode_utf8Form1 (c : BitVec 7) : decode (encode (.utf8Form1 c)) = .instr (.utf8Form1 c) := by
  obtain ⟨hwidth, hhigh⟩ := Laws.EncodeWidth.utf8Form1 c
  obtain ⟨hmask, hc⟩ := (eq_form1Word_iff (shiftRight_eq_zero_iff.mp hhigh) c).mp rfl
  refine (decode_utf8 hwidth hhigh).trans ((if_pos hmask).trans ?_)
  rw [hc]

theorem decode_encode_utf8Form2 (c : BitVec 11) : decode (encode (.utf8Form2 c)) = .instr (.utf8Form2 c) := by
  obtain ⟨hwidth, hhigh⟩ := Laws.EncodeWidth.utf8Form2 c
  obtain ⟨hmask, ha, hb⟩ :=
    (eq_form2Word_iff (shiftRight_eq_zero_iff.mp hhigh) (c.extractLsb' 6 5) (c.extractLsb' 0 6)).mp rfl
  refine (decode_utf8 hwidth hhigh).trans ((if_pos hmask).trans ?_)
  rw [ha, hb, append_fields2]

theorem decode_encode_utf8Form3 (c : BitVec 16) : decode (encode (.utf8Form3 c)) = .instr (.utf8Form3 c) := by
  obtain ⟨hwidth, hhigh⟩ := Laws.EncodeWidth.utf8Form3 c
  obtain ⟨hmask, ha, hb, hd⟩ := (eq_form3Word_iff (shiftRight_eq_zero_iff.mp hhigh) (c.extractLsb' 12 4)
    (c.extractLsb' 6 6) (c.extractLsb' 0 6)).mp rfl
  refine (decode_utf8 hwidth hhigh).trans ((if_pos hmask).trans ?_)
  rw [ha, hb, hd, append_fields3]

theorem decode_encode_utf8Form4 (c : BitVec 21) : decode (encode (.utf8Form4 c)) = .instr (.utf8Form4 c) := by
  obtain ⟨hwidth, hhigh⟩ := Laws.EncodeWidth.utf8Form4 c
  obtain ⟨hmask, ha, hb, hd, he⟩ := (eq_form4Word_iff (w := (encode (.utf8Form4 c)).word) (c.extractLsb' 18 3)
    (c.extractLsb' 12 6) (c.extractLsb' 6 6) (c.extractLsb' 0 6)).mp rfl
  refine (decode_utf8 hwidth hhigh).trans ((if_pos hmask).trans ?_)
  rw [ha, hb, hd, he, append_fields4]

theorem decode_encode_uDrop {cp : BitVec 22} (h : 2 ^ 21 ≤ cp.toNat) :
    decode (encode (.uDrop cp)) = .instr (.uDrop cp) := by
  obtain ⟨hwidth, hhigh⟩ := Laws.EncodeWidth.uDrop cp
  have hcp := cp.isLt
  have hword := uDrop_word_toNat cp
  have hmask : (encode (.uDrop cp)).word &&& 0x3E00000#32 = 0x0600000#32 :=
    (dropSelector_mask (by omega)).mpr (by omega)
  have hoperand : (encode (.uDrop cp)).word.extractLsb' 0 22 = cp := by
    rw [← BitVec.toNat_inj, toNat_extractLsb'_eq_div_mod]
    omega
  have hrow : decodePhaseCp22 (encode (.uDrop cp)).word = .instr (.uDrop cp) := by
    rw [decodePhaseCp22, if_pos hmask, hoperand]
  simp only [decode, hwidth, hhigh, not_true_eq_false, if_false, ne_eq]
  exact hrow

/-- The four encoder rows share their pattern, so the code point alone decides which is read. -/
theorem decode_encoderPattern (cp : CodePoint) :
    decode { format := .phaseCp, nbits := 25, word := 0x0200000#32 ||| cp.setWidth 32 } =
      .instr (encoderRowOf cp) := by
  rw [encoderPattern_eq, decode_encoderWord]

/-- A well-formed encoder row is the row of its code point (R77). -/
theorem encoderRowOf_of_wellFormed {i : Instr} {cp : CodePoint} (h : i.wellFormed = true)
    (hi : i = .uEnc1 cp ∨ i = .uEnc2 cp ∨ i = .uEnc3 cp ∨ i = .uEnc4 cp) : encoderRowOf cp = i := by
  obtain rfl | rfl | rfl | rfl := hi <;>
    simp only [Instr.wellFormed, Bool.and_eq_true, decide_eq_true_eq, BitVec.le_def, BitVec.toNat_ofNat] at h
  · rw [encoderRowOf, if_pos h]
  · rw [encoderRowOf, if_neg (by omega), if_pos h.2]
  · rw [encoderRowOf, if_neg (by omega), if_neg (by omega), if_pos h.2]
  · rw [encoderRowOf, if_neg (by omega), if_neg (by omega), if_neg (by omega)]

/-- Settles O1, row by row: a row without an operand by its fixed word, an encoder row by its range, the rows with fields
by the pattern they share with the decoder. -/
theorem decodeEncodeAgree : Obligations.DecodeEncodeAgree := by
  intro i h
  cases i with
  | start text => exact decode_encode_start text
  | digest text => simp [decode, encode, Format.widths]
  | uEnc1 cp => exact (decode_encoderPattern cp).trans (congrArg _ (encoderRowOf_of_wellFormed h (by simp)))
  | uEnc2 cp => exact (decode_encoderPattern cp).trans (congrArg _ (encoderRowOf_of_wellFormed h (by simp)))
  | uEnc3 cp => exact (decode_encoderPattern cp).trans (congrArg _ (encoderRowOf_of_wellFormed h (by simp)))
  | uEnc4 cp => exact (decode_encoderPattern cp).trans (congrArg _ (encoderRowOf_of_wellFormed h (by simp)))
  | uDrop cp => exact decode_encode_uDrop (BitVec.lt_def.mp (of_decide_eq_true h))
  | utf8Form1 c => exact decode_encode_utf8Form1 c
  | utf8Form2 c => exact decode_encode_utf8Form2 c
  | utf8Form3 c => exact decode_encode_utf8Form3 c
  | utf8Form4 c => exact decode_encode_utf8Form4 c
  | status done busy fcode phase => exact decode_encode_status h
  | reset | rdstat | rdhex | pSize | pPack | pMark | pLen | pCheck | cInit | cLoad | cExpand | cRound | cAdd | xNib
  | hexChar0 | hexChar1 | hexChar2 | hexChar3 | hexChar4 | hexChar5 | hexChar6 | hexChar7 | hexChar8 | hexChar9
  | hexCharA | hexCharB | hexCharC | hexCharD | hexCharE | hexCharF => rfl

/-! ### From a packet to its instruction and back -/

/-- If the decoder answers an instruction, the packet is that instruction's encoding. -/
def Decoded.encodesTo (p : Packet) : Decoded → Prop
  | .instr i => encode i = p
  | .rejected _ => True

theorem Decoded.encodesTo_ite {p : Packet} {c : Prop} [Decidable c] {d e : Decoded} (hd : c → d.encodesTo p)
    (he : ¬ c → e.encodesTo p) : (if c then d else e).encodesTo p := by
  split
  · exact hd ‹_›
  · exact he ‹_›

theorem Decoded.encodesTo_guard {p : Packet} {c : Prop} [Decidable c] {why : DecodeError} {d : Decoded}
    (hd : ¬ c → d.encodesTo p) : (if c then .rejected why else d).encodesTo p :=
  Decoded.encodesTo_ite (fun _ => trivial) hd

theorem Decoded.encodesTo_noOperand {f : Format} {n : Nat} {w : BitVec 32} {text : List CodeUnit} {d : Decoded}
    (hd : d.encodesTo ⟨f, n, w, []⟩) : (if text ≠ [] then .rejected .strayOperand else d).encodesTo ⟨f, n, w, text⟩ := by
  refine Decoded.encodesTo_guard fun htext => ?_
  obtain rfl : text = [] := not_not.mp htext
  exact hd

/-- A row whose pattern is one fixed word. -/
theorem Decoded.encodesTo_row {f : Format} {n : Nat} {w v : BitVec 32} {text : List CodeUnit} {i : Instr} {e : Decoded}
    (hi : encode i = ⟨f, n, v, text⟩) (he : e.encodesTo ⟨f, n, w, text⟩) :
    (if w = v then .instr i else e).encodesTo ⟨f, n, w, text⟩ :=
  Decoded.encodesTo_ite (fun h => h ▸ hi) fun _ => he

theorem decodeCommand_encodesTo {w : BitVec 32} (hw : w.toNat < 2 ^ 2) (text : List CodeUnit) :
    (decodeCommand w text).encodesTo { format := .H, nbits := 2, word := w, text := text } := by
  refine Decoded.encodesTo_ite (fun h => by rw [h]; rfl) fun h1 => Decoded.encodesTo_noOperand ?_
  refine Decoded.encodesTo_ite (fun h => by rw [h]; rfl) fun h0 =>
    Decoded.encodesTo_ite (fun h => by rw [h]; rfl) fun h2 => ?_
  have h3 : w = 3#32 := by bv_omega
  rw [h3]
  rfl

theorem decodePhase_encodesTo (w : BitVec 32) :
    (decodePhase w).encodesTo { format := .phase, nbits := 4, word := w } := by
  unfold decodePhase
  iterate 11 refine Decoded.encodesTo_row rfl ?_
  exact Decoded.encodesTo_guard fun _ => Decoded.encodesTo_guard fun _ => trivial

theorem decodeHexChar_encodesTo (w : BitVec 32) :
    (decodeHexChar w).encodesTo { format := .hexChar, nbits := 8, word := w } := by
  unfold decodeHexChar
  iterate 16 refine Decoded.encodesTo_row rfl ?_
  trivial

/-- Every encoder row's mask keeps the four bits of the phase, so the word is the selector of the code point read. -/
theorem encoderPattern_of_mask {w m : BitVec 32} (hw : w.toNat < 2 ^ 25) (hm : m &&& 0x1E00000#32 = 0x1E00000#32)
    (h : w &&& m = 0x0200000#32) : 0x0200000#32 ||| (w.extractLsb' 0 21).setWidth 32 = w := by
  have hphase : w &&& 0x1E00000#32 = 0x0200000#32 := by rw [← hm, ← BitVec.and_assoc, h]; rfl
  have hdiv := (encoderPhase_mask hw).mp hphase
  rw [encoderPattern_eq, ← BitVec.toNat_inj, encoderWord_toNat, toNat_extractLsb'_eq_div_mod]
  omega

theorem decodePhaseCp_encodesTo {w : BitVec 32} (hw : w.toNat < 2 ^ 25) :
    (decodePhaseCp w).encodesTo { format := .phaseCp, nbits := 25, word := w } := by
  have hrow {m : BitVec 32} (hm : m &&& 0x1E00000#32 = 0x1E00000#32) (h : w &&& m = 0x0200000#32) :
      ({ format := .phaseCp, nbits := 25, word := 0x0200000#32 ||| (w.extractLsb' 0 21).setWidth 32 } : Packet) =
        { format := .phaseCp, nbits := 25, word := w } := by
    rw [encoderPattern_of_mask hw hm h]
  exact Decoded.encodesTo_ite (hrow rfl) fun _ => Decoded.encodesTo_ite (hrow rfl) fun _ =>
    Decoded.encodesTo_ite (hrow rfl) fun _ => Decoded.encodesTo_ite (hrow rfl) fun _ => trivial

theorem decodePhaseCp22_encodesTo {w : BitVec 32} (hw : w.toNat < 2 ^ 26) :
    (decodePhaseCp22 w).encodesTo { format := .phaseCp22, nbits := 26, word := w } := by
  refine Decoded.encodesTo_ite (fun h => ?_) fun _ => trivial
  have hdiv := (dropSelector_mask hw).mp h
  have hword : (encode (.uDrop (w.extractLsb' 0 22))).word = w := by
    rw [← BitVec.toNat_inj, uDrop_word_toNat, toNat_extractLsb'_eq_div_mod]
    omega
  exact congrArg (Packet.mk .phaseCp22 26 · []) hword

/-! Encoding an operand that the decoder has put together from its fields. -/

theorem encode_utf8Form2_append (a : BitVec 5) (b : BitVec 6) :
    encode (.utf8Form2 (a ++ b)) = { format := .utf8, nbits := 16, word := form2Word a b } := by
  have hfields : (a ++ b).extractLsb' 6 5 = a ∧ (a ++ b).extractLsb' 0 6 = b := by
    simp only [← BitVec.toNat_inj, toNat_append_eq_add, toNat_extractLsb'_eq_div_mod]
    omega
  obtain ⟨ha, hb⟩ := hfields
  rw [encode, ha, hb, form2Word]

theorem encode_utf8Form3_append (a : BitVec 4) (b c : BitVec 6) :
    encode (.utf8Form3 (a ++ b ++ c)) = { format := .utf8, nbits := 24, word := form3Word a b c } := by
  have hfields : (a ++ b ++ c).extractLsb' 12 4 = a ∧ (a ++ b ++ c).extractLsb' 6 6 = b ∧
      (a ++ b ++ c).extractLsb' 0 6 = c := by
    simp only [← BitVec.toNat_inj, toNat_append_eq_add, toNat_extractLsb'_eq_div_mod]
    omega
  obtain ⟨ha, hb, hc⟩ := hfields
  rw [encode, ha, hb, hc, form3Word]

theorem encode_utf8Form4_append (a : BitVec 3) (b c d : BitVec 6) :
    encode (.utf8Form4 (a ++ b ++ c ++ d)) = { format := .utf8, nbits := 32, word := form4Word a b c d } := by
  have hfields : (a ++ b ++ c ++ d).extractLsb' 18 3 = a ∧ (a ++ b ++ c ++ d).extractLsb' 12 6 = b ∧
      (a ++ b ++ c ++ d).extractLsb' 6 6 = c ∧ (a ++ b ++ c ++ d).extractLsb' 0 6 = d := by
    simp only [← BitVec.toNat_inj, toNat_append_eq_add, toNat_extractLsb'_eq_div_mod]
    omega
  obtain ⟨ha, hb, hc, hd⟩ := hfields
  rw [encode, ha, hb, hc, hd, BitVec.setWidth_eq, form4Word, BitVec.setWidth_eq]

theorem decodeUtf8_encodesTo {nbits : Nat} {w : BitVec 32} (hwidth : nbits ∈ Format.utf8.widths)
    (hw : w.toNat < 2 ^ nbits) : (decodeUtf8 nbits w).encodesTo { format := .utf8, nbits := nbits, word := w } := by
  have hcases : nbits = 8 ∨ nbits = 16 ∨ nbits = 24 ∨ nbits = 32 := by simpa [Format.widths] using hwidth
  obtain rfl | rfl | rfl | rfl := hcases
  · refine Decoded.encodesTo_ite (c := w &&& 0x80#32 = 0x00#32) (fun h => ?_) fun _ => trivial
    exact congrArg (Packet.mk .utf8 8 · []) ((eq_form1Word_iff hw _).mpr ⟨h, rfl⟩).symm
  · refine Decoded.encodesTo_ite (c := w &&& 0xE0C0#32 = 0xC080#32) (fun h => ?_) fun _ => trivial
    exact (encode_utf8Form2_append _ _).trans
      (congrArg (Packet.mk .utf8 16 · []) ((eq_form2Word_iff hw _ _).mpr ⟨h, rfl, rfl⟩).symm)
  · refine Decoded.encodesTo_ite (c := w &&& 0xF0C0C0#32 = 0xE08080#32) (fun h => ?_) fun _ => trivial
    exact (encode_utf8Form3_append _ _ _).trans
      (congrArg (Packet.mk .utf8 24 · []) ((eq_form3Word_iff hw _ _ _).mpr ⟨h, rfl, rfl, rfl⟩).symm)
  · refine Decoded.encodesTo_ite (c := w &&& 0xF8C0C0C0#32 = 0xF0808080#32) (fun h => ?_) fun _ => trivial
    exact (encode_utf8Form4_append _ _ _ _).trans
      (congrArg (Packet.mk .utf8 32 · []) ((eq_form4Word_iff _ _ _ _).mpr ⟨h, rfl, rfl, rfl, rfl⟩).symm)

theorem decodeStatus_encodesTo {w : BitVec 32} (hw : w.toNat < 2 ^ 8) :
    (decodeStatus w).encodesTo { format := .status, nbits := 8, word := w } := by
  refine Decoded.encodesTo_guard fun _ => Decoded.encodesTo_guard fun _ =>
    Decoded.encodesTo_ite (fun _ => ?_) fun _ => trivial
  refine congrArg (Packet.mk .status 8 · []) (BitVec.eq_of_getLsbD_eq fun k hk => ?_)
  have hhigh : 8 ≤ k → w.getLsbD k = false := fun h =>
    Nat.testBit_lt_two_pow (hw.trans_le (Nat.pow_le_pow_right (by decide) h))
  refine (getLsbD_encode_status _ _ _ _ k).trans ?_
  simp only [BitVec.getLsbD_extractLsb']
  grind

/-- The decoder's branches, format by format: the guards leave a packet of the row's width with the row's operand. -/
theorem decode_encodesTo (p : Packet) : (decode p).encodesTo p := by
  refine Decoded.encodesTo_guard fun hwidth => Decoded.encodesTo_guard fun hhigh => ?_
  obtain ⟨format, nbits, word, text⟩ := p
  replace hwidth : nbits ∈ format.widths := not_not.mp hwidth
  replace hhigh : word.toNat < 2 ^ nbits := shiftRight_eq_zero_iff.mp (not_not.mp hhigh)
  cases format with
  | H =>
    obtain rfl := List.mem_singleton.mp hwidth
    exact decodeCommand_encodesTo hhigh text
  | pseudo =>
    obtain rfl := List.mem_singleton.mp hwidth
    have hzero : 0#32 = word := by bv_omega
    exact congrArg (Packet.mk .pseudo 0 · text) hzero
  | phase =>
    obtain rfl := List.mem_singleton.mp hwidth
    exact Decoded.encodesTo_noOperand (decodePhase_encodesTo word)
  | phaseCp =>
    obtain rfl := List.mem_singleton.mp hwidth
    exact Decoded.encodesTo_noOperand (decodePhaseCp_encodesTo hhigh)
  | phaseCp22 =>
    obtain rfl := List.mem_singleton.mp hwidth
    exact Decoded.encodesTo_noOperand (decodePhaseCp22_encodesTo hhigh)
  | utf8 =>
    exact Decoded.encodesTo_noOperand (decodeUtf8_encodesTo hwidth hhigh)
  | hexChar =>
    obtain rfl := List.mem_singleton.mp hwidth
    exact Decoded.encodesTo_noOperand (decodeHexChar_encodesTo word)
  | status =>
    obtain rfl := List.mem_singleton.mp hwidth
    exact Decoded.encodesTo_noOperand (decodeStatus_encodesTo hhigh)

/-- Settles O2: each branch of the decoder answers with a row whose encoding is the packet in hand. -/
theorem encodeDecodeAgree : Obligations.EncodeDecodeAgree := by
  intro p i h
  have hback := decode_encodesTo p
  rwa [h] at hback

end Sys2Proof
end

section
/-! PROOFS. The bytes of a code point as numbers, and what the decoder and a reader make of the engine's output (R72 to
R77, R82, R85). -/

namespace Sys2Proof.Machine

/-- A byte of a sequence: fixed high bits, and below them the low `k` bits of a number (R73 to R76). -/
theorem taggedByte_eq {k : Nat} (hk : k ≤ 8) (t : Nat) (x : CodePoint) :
    BitVec.ofNat 8 (2 ^ k * t) ||| (x &&& BitVec.ofNat 21 (2 ^ k - 1)).setWidth 8 =
      BitVec.ofNat 8 (2 ^ k * t + x.toNat % 2 ^ k) := by
  have hpow : 2 ^ k ≤ 2 ^ 8 := Nat.pow_le_pow_right (by decide) hk
  have hlow : x.toNat % 2 ^ k < 2 ^ k := Nat.mod_lt _ (Nat.two_pow_pos k)
  have hfield : (x &&& BitVec.ofNat 21 (2 ^ k - 1)).setWidth 8 = BitVec.ofNat 8 (x.toNat % 2 ^ k) := by
    rw [← BitVec.toNat_inj, BitVec.toNat_setWidth, BitVec.toNat_and, BitVec.toNat_ofNat, BitVec.toNat_ofNat,
      Nat.mod_eq_of_lt (a := 2 ^ k - 1) (by omega), Nat.and_two_pow_sub_one_eq_mod]
  rw [hfield, ← BitVec.ofNat_or, ← Nat.two_pow_add_eq_or_of_lt hlow]

theorem form1_eq (cp : CodePoint) : form1 cp = [BitVec.ofNat 8 cp.toNat] := by
  rw [form1, BitVec.ofNat_toNat]

theorem form2_eq (cp : CodePoint) :
    form2 cp = [BitVec.ofNat 8 (0xC0 + cp.toNat / 64 % 32), BitVec.ofNat 8 (0x80 + cp.toNat % 64)] := by
  have hlead := taggedByte_eq (k := 5) (by decide) 6 (cp >>> 6)
  have hlast := taggedByte_eq (k := 6) (by decide) 2 cp
  rw [BitVec.toNat_ushiftRight, Nat.shiftRight_eq_div_pow] at hlead
  exact congrArg₂ (fun a b => [a, b]) hlead hlast

theorem form3_eq (cp : CodePoint) :
    form3 cp = [BitVec.ofNat 8 (0xE0 + cp.toNat / 4096 % 16), BitVec.ofNat 8 (0x80 + cp.toNat / 64 % 64),
      BitVec.ofNat 8 (0x80 + cp.toNat % 64)] := by
  have hlead := taggedByte_eq (k := 4) (by decide) 14 (cp >>> 12)
  have hmid := taggedByte_eq (k := 6) (by decide) 2 (cp >>> 6)
  have hlast := taggedByte_eq (k := 6) (by decide) 2 cp
  rw [BitVec.toNat_ushiftRight, Nat.shiftRight_eq_div_pow] at hlead hmid
  exact congr (congrArg₂ (fun a b c => [a, b, c]) hlead hmid) hlast

theorem form4_eq (cp : CodePoint) :
    form4 cp = [BitVec.ofNat 8 (0xF0 + cp.toNat / 262144 % 8), BitVec.ofNat 8 (0x80 + cp.toNat / 4096 % 64),
      BitVec.ofNat 8 (0x80 + cp.toNat / 64 % 64), BitVec.ofNat 8 (0x80 + cp.toNat % 64)] := by
  have hlead := taggedByte_eq (k := 3) (by decide) 30 (cp >>> 18)
  have hmid := taggedByte_eq (k := 6) (by decide) 2 (cp >>> 12)
  have hmid' := taggedByte_eq (k := 6) (by decide) 2 (cp >>> 6)
  have hlast := taggedByte_eq (k := 6) (by decide) 2 cp
  rw [BitVec.toNat_ushiftRight, Nat.shiftRight_eq_div_pow] at hlead hmid hmid'
  exact congr (congr (congrArg₂ (fun a b c d => [a, b, c, d]) hlead hmid) hmid') hlast

/-- Settles O4: the masks of the table, tried in order, are the thresholds of R77. -/
theorem thresholdsSelectEncoderRow : Obligations.ThresholdsSelectEncoderRow := decode_encoderWord

/-! ### The bytes of a form, put together, are the word of its pattern -/

theorem form1Word_of_byte (a : BitVec 7) : (BitVec.ofNat 8 a.toNat).setWidth 32 = form1Word a := by
  rw [← BitVec.toNat_inj, form1Word_toNat]
  simp only [BitVec.toNat_setWidth, BitVec.toNat_ofNat]
  omega

theorem form2Word_of_bytes (a : BitVec 5) (b : BitVec 6) :
    (BitVec.ofNat 8 (0xC0 + a.toNat) ++ BitVec.ofNat 8 (0x80 + b.toNat)).setWidth 32 = form2Word a b := by
  rw [← BitVec.toNat_inj, form2Word_toNat]
  simp only [BitVec.toNat_setWidth, toNat_append_eq_add, BitVec.toNat_ofNat]
  omega

theorem form3Word_of_bytes (a : BitVec 4) (b c : BitVec 6) :
    (BitVec.ofNat 8 (0xE0 + a.toNat) ++ BitVec.ofNat 8 (0x80 + b.toNat) ++
      BitVec.ofNat 8 (0x80 + c.toNat)).setWidth 32 = form3Word a b c := by
  rw [← BitVec.toNat_inj, form3Word_toNat]
  simp only [BitVec.toNat_setWidth, toNat_append_eq_add, BitVec.toNat_ofNat]
  omega

theorem form4Word_of_bytes (a : BitVec 3) (b c d : BitVec 6) :
    (BitVec.ofNat 8 (0xF0 + a.toNat) ++ BitVec.ofNat 8 (0x80 + b.toNat) ++ BitVec.ofNat 8 (0x80 + c.toNat) ++
      BitVec.ofNat 8 (0x80 + d.toNat)).setWidth 32 = form4Word a b c d := by
  rw [← BitVec.toNat_inj, form4Word_toNat]
  simp only [BitVec.toNat_setWidth, toNat_append_eq_add, BitVec.toNat_ofNat]
  omega

/-- Narrowing a code point keeps the fields that lie inside the narrower width. -/
theorem extractLsb'_setWidth_toNat (cp : CodePoint) {width start len : Nat} (h : start + len ≤ width) :
    ((cp.setWidth width).extractLsb' start len).toNat = cp.toNat / 2 ^ start % 2 ^ len := by
  rw [BitVec.extractLsb'_setWidth_of_le h, toNat_extractLsb'_eq_div_mod]

theorem lowBits_setWidth_toNat (cp : CodePoint) {width len : Nat} (h : len ≤ width) :
    ((cp.setWidth width).extractLsb' 0 len).toNat = cp.toNat % 2 ^ len := by
  rw [extractLsb'_setWidth_toNat cp (by omega), Nat.pow_zero, Nat.div_one]

theorem decode_bytes_of_form1 {cp : CodePoint} (h : cp.toNat ≤ 0x7F) :
    decode { format := .utf8, nbits := 8, word := (BitVec.ofNat 8 cp.toNat).setWidth 32 } =
      .instr (.utf8Form1 (cp.setWidth 7)) := by
  have ha : (cp.setWidth 7).toNat = cp.toNat := by
    rw [BitVec.toNat_setWidth, Nat.mod_eq_of_lt (Nat.lt_succ_of_le h)]
  rw [← ha, form1Word_of_byte]
  exact decode_encode_utf8Form1 (cp.setWidth 7)

theorem decode_bytes_of_form2 (cp : CodePoint) :
    decode { format := .utf8, nbits := 16, word :=
      (BitVec.ofNat 8 (0xC0 + cp.toNat / 64 % 32) ++ BitVec.ofNat 8 (0x80 + cp.toNat % 64)).setWidth 32 } =
      .instr (.utf8Form2 (cp.setWidth 11)) := by
  have ha : ((cp.setWidth 11).extractLsb' 6 5).toNat = cp.toNat / 64 % 32 :=
    extractLsb'_setWidth_toNat cp (by decide)
  have hb : ((cp.setWidth 11).extractLsb' 0 6).toNat = cp.toNat % 64 := lowBits_setWidth_toNat cp (by decide)
  rw [← ha, ← hb, form2Word_of_bytes]
  exact decode_encode_utf8Form2 (cp.setWidth 11)

theorem decode_bytes_of_form3 (cp : CodePoint) :
    decode { format := .utf8, nbits := 24, word :=
      (BitVec.ofNat 8 (0xE0 + cp.toNat / 4096 % 16) ++ BitVec.ofNat 8 (0x80 + cp.toNat / 64 % 64) ++
        BitVec.ofNat 8 (0x80 + cp.toNat % 64)).setWidth 32 } =
      .instr (.utf8Form3 (cp.setWidth 16)) := by
  have ha : ((cp.setWidth 16).extractLsb' 12 4).toNat = cp.toNat / 4096 % 16 :=
    extractLsb'_setWidth_toNat cp (by decide)
  have hb : ((cp.setWidth 16).extractLsb' 6 6).toNat = cp.toNat / 64 % 64 :=
    extractLsb'_setWidth_toNat cp (by decide)
  have hc : ((cp.setWidth 16).extractLsb' 0 6).toNat = cp.toNat % 64 := lowBits_setWidth_toNat cp (by decide)
  rw [← ha, ← hb, ← hc, form3Word_of_bytes]
  exact decode_encode_utf8Form3 (cp.setWidth 16)

theorem decode_bytes_of_form4 (cp : CodePoint) :
    decode { format := .utf8, nbits := 32, word :=
      (BitVec.ofNat 8 (0xF0 + cp.toNat / 262144 % 8) ++ BitVec.ofNat 8 (0x80 + cp.toNat / 4096 % 64) ++
        BitVec.ofNat 8 (0x80 + cp.toNat / 64 % 64) ++ BitVec.ofNat 8 (0x80 + cp.toNat % 64)).setWidth 32 } =
      .instr (.utf8Form4 cp) := by
  have ha : (cp.extractLsb' 18 3).toNat = cp.toNat / 262144 % 8 := toNat_extractLsb'_eq_div_mod cp 18 3
  have hb : (cp.extractLsb' 12 6).toNat = cp.toNat / 4096 % 64 := toNat_extractLsb'_eq_div_mod cp 12 6
  have hc : (cp.extractLsb' 6 6).toNat = cp.toNat / 64 % 64 := toNat_extractLsb'_eq_div_mod cp 6 6
  have hd : (cp.extractLsb' 0 6).toNat = cp.toNat % 64 := toNat_extractLsb'_zero cp 6
  rw [← ha, ← hb, ← hc, ← hd, form4Word_of_bytes]
  exact decode_encode_utf8Form4 cp

/-- Settles O5: the threshold that holds names the form, and the form's bytes are the word of its pattern. -/
theorem emittedBytesReadBack : Obligations.EmittedBytesReadBack := by
  intro cp
  refine ⟨fun h => ?_, fun ⟨hl, hr⟩ => ?_, fun ⟨hl, hr⟩ => ?_, fun hl => ?_⟩
  · rw [emit_eq, if_pos h, form1_eq]
    exact ⟨_, rfl, decode_bytes_of_form1 h⟩
  · rw [emit_eq, if_neg (by omega), if_pos hr, form2_eq]
    exact ⟨_, _, rfl, decode_bytes_of_form2 cp⟩
  · rw [emit_eq, if_neg (by omega), if_neg (by omega), if_pos hr, form3_eq]
    exact ⟨_, _, _, rfl, decode_bytes_of_form3 cp⟩
  · rw [emit_eq, if_neg (by omega), if_neg (by omega), if_neg (by omega), form4_eq]
    exact ⟨_, _, _, _, rfl, decode_bytes_of_form4 cp⟩

/-- A resolved code point is a code unit or a surrogate pair's, and neither passes 0x10FFFF (R72, R102). -/
theorem resolve_toNat_le (T : Mem 16) (n i : Nat) : (resolve T n i).1.toNat ≤ 0x10FFFF := by
  by_cases h : (isHigh (T.read i) && decide (i + 1 < n) && isLow (T.read (i + 1))) = true
  · have hpair : resolve T n i = (pairPoint (T.read i) (T.read (i + 1)), 2) := if_pos h
    rw [hpair, pairPoint_toNat]
    omega
  · have hsingle : resolve T n i = ((T.read i).setWidth 21, 1) := if_neg h
    have hunit := (T.read i).isLt
    rw [hsingle, BitVec.toNat_setWidth]
    omega

theorem selector_format (s : State) : (selector s).format = .phaseCp ∨ (selector s).format = .phase := by
  unfold selector
  split
  · exact .inl rfl
  · exact .inr rfl

/-- Settles O21: a packet decodes to rows of its own format only, and the engine's selector never has that of
`U.DROP`. -/
theorem dropIsNeverSelected : Obligations.DropIsNeverSelected := by
  intro s
  refine ⟨resolve_toNat_le s.T s.n s.i, fun cp hdrop => ?_⟩
  have hformat : Format.phaseCp22 = (selector s).format := format_of_decode hdrop
  obtain h | h := selector_format s <;> rw [h] at hformat <;> cases hformat

/-- Settles O3: the decoder evaluates on each word. -/
theorem tableWordsDecode : Obligations.TableWordsDecode := ⟨rfl, rfl, rfl, rfl, rfl, rfl, rfl, rfl⟩

/-- Settles O40: every row notes its digit and its character, and nothing else. -/
theorem hexCharacterRowsAreRead : Obligations.HexCharacterRowsAreRead := fun _ =>
  ⟨rfl, rfl, rfl, rfl, rfl, rfl, rfl, rfl, rfl, rfl, rfl, rfl, rfl, rfl, rfl, rfl⟩

/-- The row of a nibble's character (R82). -/
def hexCharRow (d : Nibble) : Instr :=
  match d.toNat with
  | 0 => .hexChar0
  | 1 => .hexChar1
  | 2 => .hexChar2
  | 3 => .hexChar3
  | 4 => .hexChar4
  | 5 => .hexChar5
  | 6 => .hexChar6
  | 7 => .hexChar7
  | 8 => .hexChar8
  | 9 => .hexChar9
  | 10 => .hexCharA
  | 11 => .hexCharB
  | 12 => .hexCharC
  | 13 => .hexCharD
  | 14 => .hexCharE
  | _ => .hexCharF

theorem encode_hexCharRow :
    ∀ d : Nibble, encode (hexCharRow d) = { format := .hexChar, nbits := 8, word := (hexchar d).setWidth 32 } := by
  decide

theorem exec_hexCharRow (d : Nibble) (s : State) : exec (hexCharRow d) s = readDigit d s := by
  obtain ⟨k, hk⟩ := d
  change k < 16 at hk
  interval_cases k <;> rfl

theorem wellFormed_hexCharRow : ∀ d : Nibble, (hexCharRow d).wellFormed = true := by decide

/-- Settles O41: the character of a nibble is the encoding of its row, so O1 reads it back. -/
theorem renderedCharactersReadBack : Obligations.RenderedCharactersReadBack := by
  intro d
  refine ⟨hexCharRow d, ?_, exec_hexCharRow d⟩
  rw [← encode_hexCharRow]
  exact decodeEncodeAgree _ (wellFormed_hexCharRow d)

/-- Settles O42: the reading carries the operand widened to a code point and the bytes of its form; an operand of the
form's width fills the lead byte without a carry. -/
theorem sequenceAndStatusRowsAreRead : Obligations.SequenceAndStatusRowsAreRead := by
  intro s
  refine ⟨fun c => ⟨c.setWidth 21, form1 (c.setWidth 21), rfl, ?_⟩,
    fun c => ⟨c.setWidth 21, form2 (c.setWidth 21), rfl, ?_⟩,
    fun c => ⟨c.setWidth 21, form3 (c.setWidth 21), rfl, ?_⟩, fun c => ⟨form4 (c.setWidth 21), ?_, ?_⟩,
    fun _ _ _ _ => rfl⟩
  · have hcp : (c.setWidth 21).toNat = c.toNat := BitVec.toNat_setWidth_of_le (by decide)
    exact ⟨hcp, by rw [form1_eq, hcp]⟩
  · have hc : c.toNat / 64 < 32 := Nat.div_lt_of_lt_mul c.isLt
    have hcp : (c.setWidth 21).toNat = c.toNat := BitVec.toNat_setWidth_of_le (by decide)
    exact ⟨hcp, by rw [form2_eq, hcp, Nat.mod_eq_of_lt hc]⟩
  · have hc : c.toNat / 4096 < 16 := Nat.div_lt_of_lt_mul c.isLt
    have hcp : (c.setWidth 21).toNat = c.toNat := BitVec.toNat_setWidth_of_le (by decide)
    exact ⟨hcp, by rw [form3_eq, hcp, Nat.mod_eq_of_lt hc]⟩
  · exact congrArg (fun cp => Host.Outcome.next { s with reading := some (.codePoint cp (form4 (c.setWidth 21))) })
      (BitVec.setWidth_eq c)
  · have hc : c.toNat / 262144 < 8 := Nat.div_lt_of_lt_mul c.isLt
    rw [BitVec.setWidth_eq, form4_eq, Nat.mod_eq_of_lt hc]

end Sys2Proof.Machine
end

section
/-! PROOFS. The items of the text in the text buffer, and what the encoder rows and `U.DROP` do with the item at the
position (R102 to R108). -/

namespace Sys2Proof.Machine

open Claims

/-! ### Resolving -/

theorem isHigh_iff {x : CodeUnit} : isHigh x = true ↔ 0xD800 ≤ x.toNat ∧ x.toNat ≤ 0xDBFF := by
  simp [isHigh, BitVec.le_def]

theorem isLow_iff {x : CodeUnit} : isLow x = true ↔ 0xDC00 ≤ x.toNat ∧ x.toNat ≤ 0xDFFF := by
  simp [isLow, BitVec.le_def]

theorem resolve_of_pair {T : Mem 16} {n i : Nat}
    (h : isHigh (T.read i) = true ∧ i + 1 < n ∧ isLow (T.read (i + 1)) = true) :
    resolve T n i = (pairPoint (T.read i) (T.read (i + 1)), 2) := if_pos (by simp [h])

theorem resolve_of_not_pair {T : Mem 16} {n i : Nat}
    (h : ¬ (isHigh (T.read i) = true ∧ i + 1 < n ∧ isLow (T.read (i + 1)) = true)) :
    resolve T n i = ((T.read i).setWidth 21, 1) := if_neg (by simpa [and_assoc] using h)

/-- Settles O18: the two surrogate tests are ranges, and inside them the masks of R72 subtract the lower ends. -/
theorem surrogatesResolve : Obligations.SurrogatesResolve := by
  intro T n i
  constructor
  · rintro ⟨hlow, hhigh, hin, hlow', hhigh'⟩
    rw [resolve_of_pair ⟨isHigh_iff.mpr ⟨hlow, hhigh⟩, hin, isLow_iff.mpr ⟨hlow', hhigh'⟩⟩, pairPoint_toNat]
    exact ⟨by omega, rfl⟩
  · intro hsingle
    rw [← and_assoc, ← isHigh_iff, ← isLow_iff] at hsingle
    rw [resolve_of_not_pair hsingle]
    exact ⟨BitVec.toNat_setWidth_of_le (by decide), rfl⟩

/-! ### Append and advance -/

/-- The state after append and advance within the limit (R108). -/
def State.appended (s : State) (out : List Byte) : State :=
  { s with
    B := s.B.writeList s.nb out, nb := s.nb + out.length, i := s.i + (resolve s.T s.n s.i).2,
    phase := if s.i + (resolve s.T s.n s.i).2 = s.n then .size else .enc }

theorem appendAdvance_of_le {s : State} {out : List Byte} (hi : s.i < s.n)
    (hlimit : s.nb + out.length ≤ Config.maxBytes) : appendAdvance out s = .next (s.appended out) := by
  obtain ⟨-, heq⟩ | ⟨hover, -⟩ := appendAdvance_cases out hi
  · exact heq
  · omega

theorem appendAdvance_of_gt {s : State} {out : List Byte} (hi : s.i < s.n)
    (hover : Config.maxBytes < s.nb + out.length) :
    appendAdvance out s = .next (s.enterFault .lengthOverflow) := by
  obtain ⟨hlimit, -⟩ | ⟨-, heq⟩ := appendAdvance_cases out hi
  · omega
  · exact heq

theorem appendsItem_appended {s : State} (hB : s.B.wf = true) (out : List Byte) :
    appendsItem out s (s.appended out) := by
  refine ⟨rfl, fun q hq => ?_, fun a ha => ?_, rfl, rfl, rfl⟩
  · have hinside : s.nb ≤ s.nb + q ∧ s.nb + q < s.nb + out.length := by omega
    exact (Mem.read_writeList hB _ _ _).trans (by rw [if_pos hinside, Nat.add_sub_cancel_left])
  · exact (Mem.read_writeList hB _ _ _).trans (if_neg (by omega))

/-- An operation that is append and advance is an encoder row (R108, R202, R204). -/
theorem encoderRow_of_exec_eq {s : State} {i : Instr} {out : List Byte} (hi : s.i < s.n) (hB : s.B.wf = true)
    (h : exec i s = appendAdvance out s) : encoderRow i out s := by
  rw [encoderRow, h]
  exact ⟨fun hlimit => ⟨_, appendAdvance_of_le hi hlimit, appendsItem_appended hB out⟩, appendAdvance_of_gt hi⟩

/-- Settles O19: each row is append and advance of its form, and below the row's upper threshold the lead byte takes the
code point's high bits whole. -/
theorem encoderRowsAppend : Obligations.EncoderRowsAppend := by
  intro s cp hi hB
  refine ⟨fun _ => ?_, fun _ hr => ?_, fun _ hr => ?_, fun _ => ?_⟩
  · rw [← form1_eq]
    exact encoderRow_of_exec_eq hi hB rfl
  · rw [← Nat.mod_eq_of_lt (show cp.toNat / 64 < 32 by omega), ← form2_eq]
    exact encoderRow_of_exec_eq hi hB rfl
  · rw [← Nat.mod_eq_of_lt (show cp.toNat / 4096 < 16 by omega), ← form3_eq]
    exact encoderRow_of_exec_eq hi hB rfl
  · rw [← Nat.mod_eq_of_lt (show cp.toNat / 262144 < 8 from Nat.div_lt_of_lt_mul cp.isLt), ← form4_eq]
    exact encoderRow_of_exec_eq hi hB rfl

/-- Settles O20: inside the text the access to `T[i]` succeeds, and the rest of the row is R108's advance. -/
theorem dropConsumesItem : Obligations.DropConsumesItem := fun _ _ hi =>
  ⟨_, inRange_of_lt hi, rfl, rfl, rfl⟩

end Sys2Proof.Machine
end

section
/-! PROOFS. Phase ENC computes `encodeUtf8` (R100, R101): each step takes the next item of the rest of the text. -/

namespace Sys2Proof

/-- A run of elements written at the end of a buffer extends its list by them. -/
theorem Mem.toList_writeList {w : Nat} {m : Mem w} (h : m.wf = true) (len : Nat) (xs : List (BitVec w)) :
    (m.writeList len xs).toList (len + xs.length) = m.toList len ++ xs := by
  simp only [Mem.toList, List.range_add, List.map_append, List.map_map]
  congr 1
  · refine List.map_congr_left fun a ha => ?_
    have hbelow : a < len := List.mem_range.mp ha
    rw [Mem.read_writeList h, if_neg (by omega)]
  · refine List.ext_getElem (by simp) fun q _ hq => ?_
    simp [Mem.read_writeList h, hq]

namespace Machine

/-! ### Clean runs -/

theorem runsCleanly_zero {s : State} (h : s.phase ≠ .fault) : runsCleanly 0 s s := by
  refine ⟨rfl, fun m hm => ?_⟩
  obtain rfl := Nat.le_zero.mp hm
  exact ⟨s, rfl, h⟩

/-- A step from outside FAULT before a clean run makes a clean run. -/
theorem runsCleanly_succ {k : Nat} {s s' t : State} (h : s.phase ≠ .fault) (hstep : step s = .next s')
    (hrun : runsCleanly k s' t) : runsCleanly (k + 1) s t := by
  obtain ⟨hend, hclean⟩ := hrun
  refine ⟨run_succ_eq_next.mpr ⟨s', hstep, hend⟩, fun m hm => ?_⟩
  cases m with
  | zero => exact ⟨s, rfl, h⟩
  | succ m =>
    obtain ⟨u, hu, hne⟩ := hclean m (Nat.le_of_succ_le_succ hm)
    exact ⟨u, run_succ_eq_next.mpr ⟨s', hstep, hu⟩, hne⟩

/-! ### The rest of the text -/

/-- The code units of the text from position `i` on. -/
def unitsFrom (T : Mem 16) (n i : Nat) : List CodeUnit := (T.toList n).drop i

theorem unitsFrom_zero (T : Mem 16) (n : Nat) : unitsFrom T n 0 = T.toList n := rfl

theorem unitsFrom_of_lt (T : Mem 16) {n i : Nat} (h : i < n) :
    unitsFrom T n i = T.read i :: unitsFrom T n (i + 1) := by
  have hlen : i < (T.toList n).length := by simpa [Mem.toList] using h
  rw [unitsFrom, List.drop_eq_getElem_cons hlen, unitsFrom]
  simp [Mem.toList]

theorem unitsFrom_of_le (T : Mem 16) {n i : Nat} (h : n ≤ i) : unitsFrom T n i = [] :=
  List.drop_eq_nil_of_le (by simpa [Mem.toList] using h)

/-- The functional level and the machine resolve the same item at every position (R100, R102). -/
theorem items_unitsFrom (T : Mem 16) {n i : Nat} (h : i < n) :
    items (unitsFrom T n i) =
      (resolve T n i).1 :: items (unitsFrom T n (i + (resolve T n i).2)) := by
  rw [unitsFrom_of_lt T h]
  by_cases hin : i + 1 < n
  · rw [unitsFrom_of_lt T hin]
    by_cases hpair : isHigh (T.read i) = true ∧ isLow (T.read (i + 1)) = true
    · obtain ⟨hhi, hlo⟩ := hpair
      rw [resolve_of_pair ⟨hhi, hin, hlo⟩]
      simp [items, hhi, hlo]
    · rw [resolve_of_not_pair fun ⟨hhi, _, hlo⟩ => hpair ⟨hhi, hlo⟩]
      have hsingle : ¬ (isHigh (T.read i) && isLow (T.read (i + 1))) = true := by simpa using hpair
      exact (if_neg hsingle).trans (by rw [unitsFrom_of_lt T hin])
  · rw [resolve_of_not_pair fun ⟨_, h', _⟩ => hin h', unitsFrom_of_le T (Nat.le_of_not_lt hin)]
    rfl

/-! ### Phase ENC -/

/-- The bytes that the rest of the text still has to give. -/
def State.restBytes (s : State) : List Byte := encodeUtf8 (unitsFrom s.T s.n s.i)

/-- The engine is between two items of its text, with no turn listed and room for what is left; past the last item it
stands in SIZE (R101). -/
structure State.betweenItems (s : State) : Prop where
  noTurn : s.agenda = []
  inside : s.i ≤ s.n
  phase : s.phase = if s.i = s.n then .size else .enc
  stream : s.B.wf = true
  room : s.nb + s.restBytes.length ≤ Config.maxBytes

/-- The rest of the text has been encoded, and nothing else has changed. -/
def restEncoded (s t : State) : Prop :=
  t.phase = .size ∧ t.i = s.n ∧ t.B.toList t.nb = s.B.toList s.nb ++ s.restBytes ∧
    t = { s with B := t.B, nb := t.nb, i := t.i, phase := t.phase }

theorem State.betweenItems.phase_ne_fault {s : State} (h : s.betweenItems) : s.phase ≠ .fault := by
  rw [h.phase]
  split <;> decide

/-- The bytes of the item at the position (R100). -/
def State.nextBytes (s : State) : List Byte := emit (resolve s.T s.n s.i).1

theorem State.restBytes_eq {s : State} (hi : s.i < s.n) :
    s.restBytes = s.nextBytes ++ (s.appended s.nextBytes).restBytes := by
  simp only [State.restBytes, encodeUtf8, items_unitsFrom s.T hi, List.flatMap_cons]
  rfl

theorem State.betweenItems.step_eq {s : State} (h : s.betweenItems) (hi : s.i < s.n) :
    step s = .next (s.appended s.nextBytes) := by
  have hroom := h.room
  have henc : s.phase = .enc := h.phase.trans (if_neg hi.ne)
  rw [State.restBytes_eq hi, List.length_append] at hroom
  rw [step_of_agenda_nil h.noTurn, engineTurn_enc henc hi]
  exact appendAdvance_of_le hi (show s.nb + s.nextBytes.length ≤ _ by omega)

theorem State.betweenItems.appended {s : State} (h : s.betweenItems) (hi : s.i < s.n) :
    (s.appended s.nextBytes).betweenItems where
  noTurn := h.noTurn
  inside := resolve_advance_le s.T hi
  phase := rfl
  stream := Mem.wf_writeList h.stream _ _
  room := by
    have hroom := h.room
    rw [State.restBytes_eq hi, List.length_append] at hroom
    exact (Nat.add_assoc _ _ _).trans_le hroom

/-- Appending the item at the position leaves only what comes after it to encode. -/
theorem restEncoded_of_appended {s t : State} (hB : s.B.wf = true) (hi : s.i < s.n)
    (h : restEncoded (s.appended s.nextBytes) t) : restEncoded s t := by
  obtain ⟨hphase, hend, hbytes, hframe⟩ := h
  have happend : (s.appended s.nextBytes).B.toList (s.appended s.nextBytes).nb = s.B.toList s.nb ++ s.nextBytes :=
    Mem.toList_writeList hB _ _
  refine ⟨hphase, hend, ?_, hframe⟩
  rw [hbytes, happend, State.restBytes_eq hi, List.append_assoc]

/-- From between two items, as many steps as items are left encode the rest of the text. -/
theorem run_encodes_rest {k : Nat} {s : State} (h : s.betweenItems)
    (hk : (items (unitsFrom s.T s.n s.i)).length = k) : ∃ t, runsCleanly k s t ∧ restEncoded s t := by
  induction k generalizing s with
  | zero =>
    have hend : s.i = s.n := by
      refine h.inside.eq_or_lt.resolve_right fun hi => ?_
      simp [items_unitsFrom s.T hi] at hk
    have hrest : s.restBytes = [] := by rw [State.restBytes, unitsFrom_of_le s.T hend.ge]; rfl
    exact ⟨s, runsCleanly_zero h.phase_ne_fault, h.phase.trans (if_pos hend), hend, by simp [hrest], rfl⟩
  | succ k ih =>
    have hi : s.i < s.n := by
      refine h.inside.lt_of_ne fun hend => ?_
      simp [unitsFrom_of_le s.T hend.ge, items] at hk
    rw [items_unitsFrom s.T hi, List.length_cons] at hk
    obtain ⟨t, hrun, hrest⟩ := ih (h.appended hi) (Nat.succ.inj hk)
    exact ⟨t, runsCleanly_succ h.phase_ne_fault (h.step_eq hi) hrun, restEncoded_of_appended h.stream hi hrest⟩

/-- Settles O50: at `i = 0` the rest of the text is the text, and an empty Byte Stream has no bytes before it. -/
theorem encoderComputesEncodeUtf8 : Obligations.EncoderComputesEncodeUtf8 := by
  intro s text hphase hagenda hi hnb hB hne hn htext hlimit
  have hunits : unitsFrom s.T s.n s.i = text := by rw [hi, unitsFrom_zero, htext]
  have hrest : s.restBytes = encodeUtf8 text := congrArg encodeUtf8 hunits
  have hpos : 0 < s.n := hn ▸ List.length_pos_iff.mpr hne
  have hstart : s.betweenItems :=
    ⟨hagenda, by omega, hphase.trans (if_neg (by omega)).symm, hB, by rwa [hnb, hrest, Nat.zero_add]⟩
  obtain ⟨t, hrun, hsize, hend, hbytes, hframe⟩ := run_encodes_rest hstart (congrArg (List.length ∘ items) hunits)
  refine ⟨t, hrun, hsize, hend, ?_, hframe⟩
  rw [hbytes, hnb, hrest]
  rfl

end Machine

end Sys2Proof
end

section
/-! PROOFS. The byte lanes of a word, and the Word Block Array read and written byte by byte (R52, R78). -/

namespace Sys2Proof.Machine

open Claims

/-! ### Byte lanes -/

theorem laneByte_toNat (w : Word) (q : Nat) : (laneByte w q).toNat = w.toNat / 2 ^ (24 - 8 * q) % 2 ^ 8 :=
  toNat_extractLsb'_eq_div_mod w (24 - 8 * q) 8

@[simp] theorem laneByte_zero (q : Nat) : laneByte 0#32 q = 0#8 := BitVec.extractLsb'_zero

theorem laneByte_or (x y : Word) (q : Nat) : laneByte (x ||| y) q = laneByte x q ||| laneByte y q :=
  BitVec.extractLsb'_or

/-- A byte moved to its lane stands there alone (R52). -/
theorem laneByte_inLane (b : Byte) (pos : Nat) {q : Nat} (hq : q < 4) :
    laneByte (inLane b pos) q = if q = pos % 4 then b else 0#8 := by
  ext k hk
  simp only [laneByte, inLane, laneShift, BitVec.getElem_extractLsb', BitVec.getLsbD_shiftLeft, BitVec.getLsbD_setWidth]
  split_ifs with hlane
  · simp [← hlane, BitVec.getLsbD_eq_getElem hk, show 24 - 8 * q + k < 32 by omega, show k < 32 by omega]
  · by_cases hbelow : 24 - 8 * q + k < 24 - 8 * (pos % 4)
    · simp [hbelow]
    · simp [BitVec.getLsbD_of_ge b (24 - 8 * q + k - (24 - 8 * (pos % 4))) (by omega)]

/-- ORing a byte into its lane leaves the other lanes as they were (R123, R124). -/
theorem laneByte_or_inLane (w : Word) (b : Byte) (pos : Nat) {q : Nat} (hq : q < 4) :
    laneByte (w ||| inLane b pos) q = if q = pos % 4 then laneByte w q ||| b else laneByte w q := by
  rw [laneByte_or, laneByte_inLane b pos hq]
  split_ifs <;> simp

/-- The lanes of a number are its bytes, the most significant first (R78). -/
theorem laneByte_ofNat (n : Nat) {q : Nat} (hq : q < 4) :
    laneByte (BitVec.ofNat 32 n) q = BitVec.ofNat 8 (n >>> (24 - 8 * q)) := by
  rw [← BitVec.toNat_inj, laneByte_toNat, BitVec.toNat_ofNat, BitVec.toNat_ofNat, Nat.shiftRight_eq_div_pow]
  interval_cases q <;> omega

/-- A word is its four lanes put together (R78). -/
theorem packedWord_laneByte (w : Word) :
    packedWord (laneByte w 0) (laneByte w 1) (laneByte w 2) (laneByte w 3) = w := by
  have hw := w.isLt
  simp only [packedWord, ← BitVec.toNat_inj, toNat_append_eq_add, laneByte_toNat]
  omega

/-! ### The Word Block Array as bytes -/

/-- The byte at position `pos` of the Word Block Array: a lane of a word (R52). -/
def byteAt (M : Mem 32) (pos : Nat) : Byte := laneByte (M.read (pos / 4)) (pos % 4)

/-- A byte ORed into the array at position `pos` (R123, R124). -/
def orByte (M : Mem 32) (pos : Nat) (b : Byte) : Mem 32 :=
  M.write (pos / 4) (M.read (pos / 4) ||| inLane b pos)

theorem byteAt_nil (pos : Nat) : byteAt [] pos = 0#8 := laneByte_zero _

theorem byteAt_write {M : Mem 32} (h : M.wf = true) (a : Nat) (x : Word) (pos : Nat) :
    byteAt (M.write a x) pos = if pos / 4 = a then laneByte x (pos % 4) else byteAt M pos := by
  rw [byteAt, Mem.read_write h, apply_ite (laneByte · (pos % 4)), byteAt]

theorem wf_orByte {M : Mem 32} (h : M.wf = true) (pos : Nat) (b : Byte) : (orByte M pos b).wf = true :=
  Mem.wf_write h _ _

theorem laneByte_read_orByte {M : Mem 32} (h : M.wf = true) (pos : Nat) (b : Byte) {q : Nat} (hq : q < 4) :
    laneByte ((orByte M pos b).read (pos / 4)) q =
      if q = pos % 4 then laneByte (M.read (pos / 4)) q ||| b else laneByte (M.read (pos / 4)) q := by
  rw [orByte, Mem.read_write_self h, laneByte_or_inLane _ b pos hq]

theorem read_orByte_other {M : Mem 32} (h : M.wf = true) {pos a : Nat} (ha : a ≠ pos / 4) (b : Byte) :
    (orByte M pos b).read a = M.read a := Mem.read_write_other h ha _

theorem byteAt_orByte {M : Mem 32} (h : M.wf = true) (pos : Nat) (b : Byte) (p : Nat) :
    byteAt (orByte M pos b) p = if p = pos then byteAt M p ||| b else byteAt M p := by
  by_cases hword : p / 4 = pos / 4
  · rw [byteAt, hword, laneByte_read_orByte h pos b (Nat.mod_lt p (by decide)), ← hword, ← byteAt]
    exact if_congr (by omega) rfl rfl
  · rw [byteAt, read_orByte_other h hword, ← byteAt, if_neg (by omega)]

/-- A word of the array is its four bytes (R78). -/
theorem read_eq_packedWord (M : Mem 32) (k : Nat) :
    M.read k = packedWord (byteAt M (4 * k)) (byteAt M (4 * k + 1)) (byteAt M (4 * k + 2)) (byteAt M (4 * k + 3)) := by
  have hlane (q : Nat) (hq : q < 4) : byteAt M (4 * k + q) = laneByte (M.read k) q := by
    rw [byteAt, show (4 * k + q) / 4 = k by omega, show (4 * k + q) % 4 = q by omega]
  have hfirst : byteAt M (4 * k) = laneByte (M.read k) 0 := hlane 0 (by decide)
  rw [hfirst, hlane 1 (by decide), hlane 2 (by decide), hlane 3 (by decide), packedWord_laneByte]

end Sys2Proof.Machine
end

section
/-! PROOFS. The rows of the padder, each as the one state it leads to (R121 to R126). -/

namespace Sys2Proof.Machine

/-- The state after `P.SIZE` (R122). -/
def State.withSizes (s : State) : State :=
  { s with
    L := BitVec.ofNat 32 (8 * s.nb), nblk := blocksFor s.nb, N := 16 * blocksFor s.nb, M := [], j := 0,
    phase := if s.nb = 0 then .mark else .pack }

/-- The state after `P.PACK` inside its spaces (R123). -/
def State.withBytePacked (s : State) : State :=
  { s with
    M := orByte s.M s.j (s.B.read s.j), j := s.j + 1, phase := if s.j + 1 = s.nb then .mark else .pack }

/-- The state after `P.MARK` inside its space (R124). -/
def State.withMarker (s : State) : State := { s with M := orByte s.M s.nb 0x80#8, phase := .len }

/-- The state after `P.LEN` inside its space (R125). -/
def State.withLength (s : State) : State := { s with M := s.M.write (s.N - 1) s.L, phase := .check }

theorem execPSize_eq (s : State) : execPSize s = .next s.withSizes := rfl

theorem execPPack_of_lt {s : State} (hj : s.j < s.nb) (hN : s.j / 4 < s.N) :
    execPPack s = .next s.withBytePacked := (inRange_of_lt hj).trans (inRange_of_lt hN)

theorem execPMark_of_lt {s : State} (h : s.nb / 4 < s.N) : execPMark s = .next s.withMarker := inRange_of_lt h

theorem execPLen_of_pos {s : State} (h : 0 < s.N) : execPLen s = .next s.withLength :=
  inRange_of_lt (Nat.sub_one_lt h.ne')

/-- The bit length of an admitted stream fits its word (R122). -/
theorem bitLength_toNat {nb : Nat} (h : nb ≤ Config.maxBytes) : (BitVec.ofNat 32 (8 * nb)).toNat = 8 * nb := by
  rw [Config.maxBytes] at h
  rw [BitVec.toNat_ofNat]
  omega

/-- The blocks have room for the bytes, the marker and the length field (R121). -/
theorem length_add_eight_lt (nb : Nat) : nb + 8 < 64 * blocksFor nb := by
  rw [blocksFor]
  omega

/-- Settles O23: the zero fill is what the blocks leave beside message, marker and length field. Any other fill differs
from it by a multiple of 512, and it is itself less than 512. -/
theorem blockCountIsLeast : Obligations.BlockCountIsLeast := by
  intro nb
  have hroom := length_add_eight_lt nb
  have hcount : blocksFor nb = (nb + 8) / 64 + 1 := rfl
  refine ⟨hcount, 512 * blocksFor nb - 64 - (8 * nb + 1), ?_, fun z hz => ?_, ?_⟩ <;> omega

/-- Settles O24: each register of the state after `P.SIZE` is the stated one, and the emptied array reads zero. -/
theorem sizesAreComputed : Obligations.SizesAreComputed := fun s =>
  ⟨s.withSizes, execPSize_eq s, bitLength_toNat, rfl, rfl, rfl, Mem.read_nil, rfl, fun h => if_pos h,
    fun h => if_neg h, rfl⟩

/-- Settles O25: inside both spaces the row ORs `B[j]` into the lane of position `j`. -/
theorem bytesArePackedBigEndian : Obligations.BytesArePackedBigEndian := fun s hM hj hN =>
  ⟨s.withBytePacked, execPPack_of_lt hj hN, fun _ hq => laneByte_read_orByte hM s.j (s.B.read s.j) hq,
    fun _ ha => read_orByte_other hM ha _, rfl, rfl, rfl⟩

/-- Settles O26: the row ORs 0x80 into the lane of position `nb`, whose word comes before the length words wherever
marker and length field fit. -/
theorem markerIsAppended : Obligations.MarkerIsAppended := by
  intro s hM hN
  have hother (a : Nat) (ha : a ≠ s.nb / 4) : s.withMarker.M.read a = s.M.read a := read_orByte_other hM ha _
  exact ⟨s.withMarker, execPMark_of_lt hN, fun _ hq => laneByte_read_orByte hM s.nb 0x80#8 hq, hother,
    fun hroom => ⟨hother _ (by omega), hother _ (by omega)⟩, rfl, rfl⟩

/-- Settles O27: the row writes the last word and no other. -/
theorem lengthIsStored : Obligations.LengthIsStored := fun s hM hN =>
  ⟨s.withLength, execPLen_of_pos hN, Mem.read_write_self hM _ _, fun _ ha => Mem.read_write_other hM ha _, rfl, rfl⟩

/-- In FAULT the status is neither done nor busy (R33, R34). -/
theorem statusByte_enterFault_blockCount (s : State) : (s.enterFault .blockCount).statusByte = 0x2E#8 := by
  simp [State.statusByte, State.done, State.busy, Phase.code, FCode.code]

/-- Settles O28: the row branches on the word count, and the other branch is fault entry with code 2. -/
theorem wordCountIsChecked : Obligations.WordCountIsChecked := fun s =>
  ⟨fun h => if_neg (not_not_intro h),
    fun h => ⟨s.enterFault .blockCount, if_pos h, rfl, rfl, statusByte_enterFault_blockCount s, rfl⟩⟩

end Sys2Proof.Machine
end

section
/-! PROOFS. Phases SIZE to LEN compute `packBlocks` (R120, R127): each step of PACK adds the next byte of the Byte Stream
to the array, and marker and length field complete the padded message. -/

namespace Sys2Proof

@[simp] theorem Mem.length_toList {w : Nat} (m : Mem w) (len : Nat) : (m.toList len).length = len := by
  simp [Mem.toList]

namespace Machine

open Claims

/-! ### The padded message -/

/-- The padded message of the Byte Stream, byte by byte (R79). -/
theorem paddedByte_toList (B : Mem 8) (nb pos : Nat) :
    paddedByte (B.toList nb) pos =
      if pos < nb then B.read pos else if pos = nb then 0x80#8
      else if 64 * blocksFor nb - 4 ≤ pos then BitVec.ofNat 8 ((8 * nb) >>> (8 * (64 * blocksFor nb - 1 - pos)))
      else 0#8 := by
  simp only [paddedByte, Mem.length_toList]
  refine ite_congr rfl (fun hpos => ?_) fun _ => rfl
  simp [Mem.toList, hpos]

/-- An array that holds the padded message byte by byte holds its words (R78, R79). -/
theorem toList_eq_paddedWords {M : Mem 32} {bytes : List Byte} {N : Nat} (hN : N = 16 * blocksFor bytes.length)
    (h : ∀ pos, pos < 4 * N → byteAt M pos = paddedByte bytes pos) : M.toList N = paddedWords bytes := by
  rw [Mem.toList, paddedWords, ← hN]
  refine List.map_congr_left fun k hk => ?_
  have hk : k < N := List.mem_range.mp hk
  rw [read_eq_packedWord, h _ (by omega), h _ (by omega), h _ (by omega), h _ (by omega)]

/-! ### Phases PACK to LEN -/

/-- The engine has packed the first `j` bytes of its Byte Stream into an otherwise empty array, with no turn listed;
past the last byte it stands in MARK (R123). -/
structure State.packing (s : State) : Prop where
  noTurn : s.agenda = []
  inside : s.j ≤ s.nb
  phase : s.phase = if s.j = s.nb then .mark else .pack
  bitLength : s.L = BitVec.ofNat 32 (8 * s.nb)
  wordCount : s.N = 16 * blocksFor s.nb
  array : s.M.wf = true
  bytes : ∀ pos, byteAt s.M pos = if pos < s.j then s.B.read pos else 0#8

/-- The array holds the padded message of the Byte Stream, and nothing else has changed. -/
def messagePadded (s t : State) : Prop :=
  t.phase = .check ∧ (∀ pos, pos < 4 * s.N → byteAt t.M pos = paddedByte (s.B.toList s.nb) pos) ∧
    t = { s with M := t.M, j := t.j, phase := t.phase }

theorem State.packing.phase_ne_fault {s : State} (h : s.packing) : s.phase ≠ .fault := by
  rw [h.phase]
  split <;> decide

/-- The array has room for the bytes, the marker and the length word. -/
theorem State.packing.room {s : State} (h : s.packing) : s.nb + 8 < 4 * s.N := by
  have hroom := length_add_eight_lt s.nb
  rw [h.wordCount]
  omega

theorem State.packing_withSizes {s : State} (hagenda : s.agenda = []) : s.withSizes.packing where
  noTurn := hagenda
  inside := Nat.zero_le s.nb
  phase := if_congr eq_comm rfl rfl
  bitLength := rfl
  wordCount := rfl
  array := Mem.wf_nil
  bytes pos := byteAt_nil pos

theorem State.packing.step_eq {s : State} (h : s.packing) (hj : s.j < s.nb) : step s = .next s.withBytePacked := by
  have hroom := h.room
  rw [step_of_agenda_nil h.noTurn, engineTurn_pack (h.phase.trans (if_neg hj.ne))]
  exact execPPack_of_lt hj (by omega)

/-- Position `j` is still zero, so ORing the next byte into it stores the byte (R123). -/
theorem State.packing.withBytePacked {s : State} (h : s.packing) (hj : s.j < s.nb) : s.withBytePacked.packing where
  noTurn := h.noTurn
  inside := hj
  phase := rfl
  bitLength := h.bitLength
  wordCount := h.wordCount
  array := wf_orByte h.array _ _
  bytes pos := by
    have hbyte : byteAt s.withBytePacked.M pos =
        if pos = s.j then byteAt s.M pos ||| s.B.read s.j else byteAt s.M pos :=
      byteAt_orByte h.array _ _ _
    rw [hbyte, h.bytes pos]
    change _ = if pos < s.j + 1 then s.B.read pos else 0#8
    obtain hlt | rfl | hgt := lt_trichotomy pos s.j
    · rw [if_neg hlt.ne, if_pos hlt, if_pos (by omega)]
    · simp
    · rw [if_neg hgt.ne', if_neg (by omega), if_neg (by omega)]

/-- With all bytes packed, the marker and the length word complete the padded message (R79, R124, R125). -/
theorem State.packing.byteAt_withLength {s : State} (h : s.packing) (hend : s.j = s.nb) {pos : Nat}
    (hpos : pos < 4 * s.N) : byteAt s.withMarker.withLength.M pos = paddedByte (s.B.toList s.nb) pos := by
  have hroom := h.room
  have htotal : 64 * blocksFor s.nb = 4 * s.N := by rw [h.wordCount]; omega
  have hmarker : byteAt s.withMarker.M pos = if pos = s.nb then byteAt s.M pos ||| 0x80#8 else byteAt s.M pos :=
    byteAt_orByte h.array _ _ _
  have hlength : byteAt s.withMarker.withLength.M pos =
      if pos / 4 = s.N - 1 then laneByte s.L (pos % 4) else byteAt s.withMarker.M pos :=
    byteAt_write (wf_orByte h.array _ _) _ _ _
  rw [hlength, hmarker, h.bytes pos, hend, paddedByte_toList, htotal]
  by_cases hlast : pos / 4 = s.N - 1
  · have hshift : 24 - 8 * (pos % 4) = 8 * (4 * s.N - 1 - pos) := by omega
    rw [if_pos hlast, if_neg (by omega), if_neg (by omega), if_pos (by omega), h.bitLength,
      laneByte_ofNat _ (Nat.mod_lt pos (by decide)), hshift]
  · rw [if_neg hlast, if_neg (show ¬ 4 * s.N - 4 ≤ pos by omega)]
    obtain hlt | rfl | hgt := lt_trichotomy pos s.nb
    · simp [hlt, hlt.ne]
    · simp
    · simp [hgt.ne', Nat.not_lt.mpr hgt.le]

/-- From MARK, two steps complete the padded message. -/
theorem State.packing.run_marker_and_length {s : State} (h : s.packing) (hend : s.j = s.nb) :
    runsCleanly 2 s s.withMarker.withLength := by
  have hroom := h.room
  have hmark : step s = .next s.withMarker := by
    rw [step_of_agenda_nil h.noTurn, engineTurn_mark (h.phase.trans (if_pos hend))]
    exact execPMark_of_lt (by omega)
  have hlen : step s.withMarker = .next s.withMarker.withLength := by
    rw [step_of_agenda_nil (s := s.withMarker) h.noTurn, engineTurn_len (s := s.withMarker) rfl]
    exact execPLen_of_pos (show 0 < s.N by omega)
  have hdone : runsCleanly 0 s.withMarker.withLength s.withMarker.withLength :=
    runsCleanly_zero (by simp [State.withLength])
  exact runsCleanly_succ h.phase_ne_fault hmark (runsCleanly_succ (by simp [State.withMarker]) hlen hdone)

/-- With `k` bytes left to pack, `k + 2` steps complete the padded message. -/
theorem run_pads_message {k : Nat} {s : State} (h : s.packing) (hk : s.nb - s.j = k) :
    ∃ t, runsCleanly (k + 2) s t ∧ messagePadded s t := by
  induction k generalizing s with
  | zero =>
    have hend : s.j = s.nb := h.inside.antisymm (Nat.le_of_sub_eq_zero hk)
    exact ⟨_, h.run_marker_and_length hend, rfl, fun _ => h.byteAt_withLength hend, rfl⟩
  | succ k ih =>
    have hj : s.j < s.nb := by omega
    obtain ⟨t, hrun, hphase, hbytes, hframe⟩ := ih (h.withBytePacked hj) (show s.nb - (s.j + 1) = k by omega)
    exact ⟨t, Nat.succ_add k 2 ▸ runsCleanly_succ h.phase_ne_fault (h.step_eq hj) hrun, hphase, hbytes, hframe⟩

/-- Settles O51: `P.SIZE` leaves no byte packed and an empty array, and the other steps pad the message in it. -/
theorem padderComputesPackBlocks : Obligations.PadderComputesPackBlocks := by
  intro s hphase hagenda hlimit
  obtain ⟨t, hrun, hcheck, hbytes, hframe⟩ := run_pads_message (State.packing_withSizes hagenda) (Nat.sub_zero s.nb)
  have hsize : step s = .next s.withSizes := by
    rw [step_of_agenda_nil hagenda, engineTurn_size hphase, execPSize_eq]
  have hstart : s.phase ≠ .fault := by simp [hphase]
  have hL : t.L = BitVec.ofNat 32 (8 * s.nb) := by rw [hframe]; rfl
  have hnblk : t.nblk = blocksFor s.nb := by rw [hframe]; rfl
  have hN : t.N = 16 * blocksFor s.nb := by rw [hframe]; rfl
  have hadmitted : packBlocks (s.B.toList s.nb) =
      { words := paddedWords (s.B.toList s.nb), bitLength := BitVec.ofNat 64 (8 * s.nb) } := by
    rw [packBlocks, Mem.length_toList, if_pos hlimit]
  have hbits : t.L.toNat = 8 * s.nb := hL ▸ bitLength_toNat hlimit
  rw [hadmitted]
  refine ⟨t, runsCleanly_succ hstart hsize hrun, hcheck, hbits, hnblk, by rw [hN, hnblk], ?_, ?_, ?_⟩
  · rw [hN]
    exact toList_eq_paddedWords (by rw [Mem.length_toList]) hbytes
  · rw [← BitVec.toNat_inj, BitVec.toNat_setWidth, hbits, BitVec.toNat_ofNat]
  · rw [hframe]
    rfl

end Machine

end Sys2Proof
end

section
/-! PROOFS. The functions of the compression engine, bit by bit (R144 to R148, R155). -/

namespace Sys2Proof.Machine

/-- Rotation wraps round the word (R9). -/
theorem getLsbD_rotr (x : Word) {r k : Nat} (hr : r < 32) (hk : k < 32) :
    (rotr x r).getLsbD k = x.getLsbD ((k + r) % 32) := by
  have hrotate : rotr x r = x.rotateRight r := (BitVec.rotateRight_eq_rotateRightAux_of_lt hr).symm
  rw [hrotate, BitVec.getLsbD_rotateRight_of_lt hr]
  by_cases hwrap : k + r < 32
  · rw [decide_eq_true (show k < 32 - r by omega), Nat.mod_eq_of_lt hwrap, Nat.add_comm]
    rfl
  · rw [decide_eq_false (show ¬ k < 32 - r by omega), decide_eq_true hk,
      show (k + r) % 32 = k - (32 - r) by omega]
    rfl

/-- A shift fills with zero (R9, R155). -/
theorem getLsbD_shr (x : Word) (r k : Nat) : (shr x r).getLsbD k = (decide (k + r < 32) && x.getLsbD (k + r)) := by
  rw [shr, BitVec.getLsbD_ushiftRight, Nat.add_comm r k]
  by_cases hin : k + r < 32
  · simp [hin]
  · simp [hin, BitVec.getLsbD_of_ge x (k + r) (by omega)]

/-- Settles O30: bit `k` of each function is the function of the three bits at `k`. -/
theorem chooseAndMajority : Obligations.ChooseAndMajority := by
  intro x y z k hk
  have hch : (ch x y z).getLsbD k =
      ((x.getLsbD k && y.getLsbD k) ^^ (!x.getLsbD k && z.getLsbD k)) := by
    simp [ch, hk]
  have hmaj : (maj x y z).getLsbD k =
      (((x.getLsbD k && y.getLsbD k) ^^ (x.getLsbD k && z.getLsbD k)) ^^ (y.getLsbD k && z.getLsbD k)) := by
    simp [maj]
  rw [hch, hmaj]
  generalize x.getLsbD k = a, y.getLsbD k = b, z.getLsbD k = c
  revert a b c
  decide

/-- Settles O31: each bit of a rotation or shift is the bit the amount brings there. -/
theorem mixingFunctionsTakeBits : Obligations.MixingFunctionsTakeBits := by
  intro x k hk
  simp only [bigSigma0, bigSigma1, smallSigma0, smallSigma1, BitVec.getLsbD_xor, getLsbD_shr]
  simp (disch := decide) only [getLsbD_rotr x _ hk, and_self]

end Sys2Proof.Machine
end

section
/-! PROOFS. The rows of the compression engine, each as the one state it leads to (R150 to R154). -/

namespace Sys2Proof.Machine

/-- The state after `C.INIT` (R150). -/
def State.withInitialHash (s : State) : State := { s with H := IV, blk := 0, phase := .load }

/-- The schedule with the block at word `16 * blk` of the array in its first 16 words (R151). -/
def State.loadedSchedule (s : State) : Vector Word 64 :=
  Vector.ofFn fun k => if k.1 < 16 then s.M.read (16 * s.blk + k.1) else s.W[k]

/-- The state after `C.LOAD` inside its space (R151). -/
def State.withBlockLoaded (s : State) : State :=
  { s with W := s.loadedSchedule, v := s.H, t := 16, phase := .expand }

/-- The state after `C.EXPAND` inside its space (R152). -/
def State.withWordExpanded (s : State) : State :=
  { s with
    W := expandAt s.W s.t, t := if s.t = 63 then 0 else s.t + 1, phase := if s.t = 63 then .round else .expand }

/-- The state after `C.ROUND` inside its space (R153). -/
def State.withRoundDone (s : State) : State :=
  { s with
    v := roundAt s.W s.v s.t, t := if s.t = 63 then s.t else s.t + 1, phase := if s.t = 63 then .add else .round }

/-- The state after `C.ADD` (R154). -/
def State.withBlockAdded (s : State) : State :=
  { s with
    H := addWords s.H s.v, blk := s.blk + 1, p := if s.blk + 1 = s.nblk then 0 else s.p,
    phase := if s.blk + 1 = s.nblk then .hex else .load }

theorem execCInit_eq (s : State) : execCInit s = .next s.withInitialHash := rfl

theorem execCLoad_of_lt {s : State} (h : 16 * s.blk + 15 < s.N) : execCLoad s = .next s.withBlockLoaded :=
  inRange_of_lt h

theorem execCExpand_of_range {s : State} (h : 16 ≤ s.t ∧ s.t < 64) : execCExpand s = .next s.withWordExpanded := by
  rw [execCExpand, dif_pos h, State.withWordExpanded, expandAt, dif_pos h]

theorem execCRound_of_lt {s : State} (h : s.t < 64) : execCRound s = .next s.withRoundDone := by
  rw [execCRound, dif_pos h, State.withRoundDone, roundAt, dif_pos h]

theorem execCAdd_eq (s : State) : execCAdd s = .next s.withBlockAdded := rfl

theorem getElem_loadedSchedule (s : State) {k : Nat} (hk : k < 64) :
    s.loadedSchedule[k] = if k < 16 then s.M.read (16 * s.blk + k) else s.W[k] := Vector.getElem_ofFn hk

/-- One step of the recurrence writes the word at `t` and no other (R143). -/
theorem getElem_expandAt (W : Vector Word 64) {t k : Nat} (ht : 16 ≤ t ∧ t < 64) (hk : k < 64) :
    (expandAt W t)[k] = if t = k then scheduleWord W t ht else W[k] := by
  rw [expandAt, dif_pos ht, Vector.getElem_set]

theorem roundAt_of_lt (W : Vector Word 64) (v : Vector Word 8) {t : Nat} (ht : t < 64) :
    roundAt W v t = roundVars v K[t] W[t] := dif_pos ht

theorem getElem_addWords (a b : Vector Word 8) (k : Fin 8) : (addWords a b)[k] = a[k] + b[k] :=
  Vector.getElem_ofFn k.2

/-- Settles O32: the row loads the table, and its words are the eight stated ones. -/
theorem hashStateIsInitialised : Obligations.HashStateIsInitialised := fun s =>
  ⟨s.withInitialHash, execCInit_eq s, rfl, rfl, rfl, rfl, rfl⟩

/-- Settles O33: inside the array the row copies the block into the first 16 schedule words and keeps the rest. -/
theorem blockIsLoaded : Obligations.BlockIsLoaded := fun s hN =>
  ⟨s.withBlockLoaded, execCLoad_of_lt hN, fun k hk => (getElem_loadedSchedule s k.2).trans (if_pos hk),
    fun k hk => (getElem_loadedSchedule s k.2).trans (if_neg hk.not_gt), fun _ => rfl, rfl, rfl, rfl⟩

/-- Settles O34: inside the schedule the row makes one step of the recurrence. -/
theorem scheduleIsExpanded : Obligations.ScheduleIsExpanded := by
  intro s hlow hhigh
  have hrange : 16 ≤ s.t ∧ s.t < 64 := ⟨hlow, by omega⟩
  exact ⟨s.withWordExpanded, execCExpand_of_range hrange,
    (getElem_expandAt s.W hrange hrange.2).trans (if_pos rfl),
    fun k hk => (getElem_expandAt s.W hrange k.2).trans (if_neg hk.symm),
    fun hlast => ⟨if_pos hlast, if_pos hlast⟩, fun hlt => ⟨if_neg hlt.ne, if_neg hlt.ne⟩, rfl⟩

/-- Settles O35: with `t` inside the tables the row makes one round on the values from before the step. -/
theorem roundMovesVariables : Obligations.RoundMovesVariables := by
  intro s ht
  have hrange : s.t < 64 := by omega
  have hv : s.withRoundDone.v = roundVars s.v K[s.t] s.W[s.t] := roundAt_of_lt s.W s.v hrange
  refine ⟨s.withRoundDone, temp1 s.v K[s.t] s.W[s.t], temp2 s.v, execCRound_of_lt hrange, rfl, rfl, ?_⟩
  rw [hv]
  exact ⟨rfl, rfl, rfl, rfl, rfl, rfl, rfl, rfl, fun hlast => ⟨(if_pos hlast).trans hlast, if_pos hlast⟩,
    fun hlt => ⟨if_neg hlt.ne, if_neg hlt.ne⟩, by rw [← hv]; rfl⟩

/-- Settles O36: the row adds word by word and branches on whether the block was the last. -/
theorem blockIsAddedBack : Obligations.BlockIsAddedBack := fun s =>
  ⟨s.withBlockAdded, execCAdd_eq s,
    fun k => (congrArg BitVec.toNat (getElem_addWords s.H s.v k)).trans (BitVec.toNat_add ..), rfl,
    fun hlast => ⟨if_pos hlast, if_pos hlast⟩, fun hmore => ⟨if_neg hmore, if_neg hmore⟩, rfl⟩

end Sys2Proof.Machine
end

section
/-! PROOFS. Phases CHECK to ADD compute `compress` (R140, R156): the steps of one block are those of the functional
level, and each block continues from the Hash State of the blocks before it. -/

namespace Sys2Proof

theorem Mem.getD_toList {w : Nat} (m : Mem w) {len k : Nat} (h : k < len) (d : BitVec w) :
    (m.toList len).getD k d = m.read k := by
  simp [Mem.toList, h]

namespace Machine

/-! ### Clean runs -/

/-- States of which each is the step of the one before, none in phase FAULT, make a clean run. -/
theorem runsCleanly_of_chain {k : Nat} {f : Nat → State} (hclean : ∀ m, m ≤ k → (f m).phase ≠ .fault)
    (hstep : ∀ m, m < k → step (f m) = .next (f (m + 1))) : runsCleanly k (f 0) (f k) := by
  induction k generalizing f with
  | zero => exact runsCleanly_zero (hclean 0 le_rfl)
  | succ k ih =>
    have htail : runsCleanly k (f 1) (f (k + 1)) :=
      ih (f := fun m => f (m + 1)) (fun m hm => hclean (m + 1) (by omega)) fun m hm => hstep (m + 1) (by omega)
    exact runsCleanly_succ (hclean 0 (Nat.zero_le _)) (hstep 0 (Nat.succ_pos k)) htail

/-- A clean run of one step more begins with a step from outside FAULT. -/
theorem runsCleanly_succ_iff {k : Nat} {s t : State} :
    runsCleanly (k + 1) s t ↔ s.phase ≠ .fault ∧ ∃ s', step s = .next s' ∧ runsCleanly k s' t := by
  refine ⟨fun ⟨hend, hclean⟩ => ?_, fun ⟨h, s', hstep, hrun⟩ => runsCleanly_succ h hstep hrun⟩
  obtain ⟨s', hstep, hend'⟩ := run_succ_eq_next.mp hend
  refine ⟨?_, s', hstep, hend', fun m hm => ?_⟩
  · obtain ⟨u, hu, hne⟩ := hclean 0 (Nat.zero_le _)
    cases hu
    exact hne
  · obtain ⟨u, hu, hne⟩ := hclean (m + 1) (by omega)
    obtain ⟨s'', hstep', hu'⟩ := run_succ_eq_next.mp hu
    cases hstep.symm.trans hstep'
    exact ⟨u, hu', hne⟩

/-- Clean runs compose. -/
theorem runsCleanly_trans {a b : Nat} {s u t : State} (hsu : runsCleanly a s u) (hut : runsCleanly b u t) :
    runsCleanly (a + b) s t := by
  induction a generalizing s with
  | zero =>
    obtain ⟨hend, -⟩ := hsu
    cases hend
    rwa [Nat.zero_add]
  | succ a ih =>
    obtain ⟨hne, s', hstep, hrun⟩ := runsCleanly_succ_iff.mp hsu
    rw [Nat.add_right_comm]
    exact runsCleanly_succ hne hstep (ih hrun)

/-! ### The steps of one block -/

/-- The state after `k` steps of phase EXPAND. -/
def State.expanded (s : State) (k : Nat) : State :=
  { s with
    W := expandFirst s.W k, t := if k = 48 then 0 else 16 + k, phase := if k = 48 then .round else .expand }

/-- The state after `k` steps of phase ROUND. -/
def State.rounded (s : State) (k : Nat) : State :=
  { s with
    v := roundsFirst s.W s.v k, t := if k = 64 then 63 else k, phase := if k = 64 then .add else .round }

theorem State.expanded_zero {s : State} (hphase : s.phase = .expand) (ht : s.t = 16) : s.expanded 0 = s := by
  cases s
  cases hphase
  cases ht
  rfl

theorem State.rounded_zero {s : State} (hphase : s.phase = .round) (ht : s.t = 0) : s.rounded 0 = s := by
  cases s
  cases hphase
  cases ht
  rfl

theorem step_expanded {s : State} (hagenda : s.agenda = []) {k : Nat} (hk : k < 48) :
    step (s.expanded k) = .next (s.expanded (k + 1)) := by
  have hphase : (s.expanded k).phase = .expand := if_neg hk.ne
  have ht : (s.expanded k).t = 16 + k := if_neg hk.ne
  rw [step_of_agenda_nil (s := s.expanded k) hagenda, engineTurn_expand hphase,
    execCExpand_of_range (by omega), State.withWordExpanded, ht]
  simp only [State.expanded, expandFirst, show 16 + k = 63 ↔ k + 1 = 48 by omega, Nat.add_assoc]

theorem step_rounded {s : State} (hagenda : s.agenda = []) {k : Nat} (hk : k < 64) :
    step (s.rounded k) = .next (s.rounded (k + 1)) := by
  have hphase : (s.rounded k).phase = .round := if_neg hk.ne
  have ht : (s.rounded k).t = k := if_neg hk.ne
  rw [step_of_agenda_nil (s := s.rounded k) hagenda, engineTurn_round hphase,
    execCRound_of_lt (by omega), State.withRoundDone, ht]
  by_cases hlast : k = 63
  · subst hlast
    rfl
  · simp only [State.rounded, roundsFirst, if_neg hlast, if_neg (show k + 1 ≠ 64 by omega)]

/-- The 48 steps of EXPAND complete the schedule (R143, R152). -/
theorem run_expands {s : State} (hagenda : s.agenda = []) (hphase : s.phase = .expand) (ht : s.t = 16) :
    runsCleanly 48 s (s.expanded 48) := by
  have hclean (k : Nat) (_ : k ≤ 48) : (s.expanded k).phase ≠ .fault := by
    simp only [State.expanded]
    split <;> decide
  have hrun := runsCleanly_of_chain hclean fun _ => step_expanded hagenda
  rwa [State.expanded_zero hphase ht] at hrun

/-- The 64 steps of ROUND make the 64 rounds (R149, R153). -/
theorem run_rounds {s : State} (hagenda : s.agenda = []) (hphase : s.phase = .round) (ht : s.t = 0) :
    runsCleanly 64 s (s.rounded 64) := by
  have hclean (k : Nat) (_ : k ≤ 64) : (s.rounded k).phase ≠ .fault := by
    simp only [State.rounded]
    split <;> decide
  have hrun := runsCleanly_of_chain hclean fun _ => step_rounded hagenda
  rwa [State.rounded_zero hphase ht] at hrun

/-- The working variables after the 64 rounds of one block. -/
def State.blockVars (s : State) : Vector Word 8 := roundsFirst (expandFirst s.loadedSchedule 48) s.H 64

/-- The state after the 114 steps of one block. -/
def State.blockDone (s : State) : State :=
  { s with
    H := addWords s.H s.blockVars, v := s.blockVars, W := expandFirst s.loadedSchedule 48, blk := s.blk + 1, t := 63,
    p := if s.blk + 1 = s.nblk then 0 else s.p, phase := if s.blk + 1 = s.nblk then .hex else .load }

/-- From LOAD, with the block inside the array, one block takes 114 steps (R156). -/
theorem run_block {s : State} (hagenda : s.agenda = []) (hphase : s.phase = .load) (hN : 16 * s.blk + 15 < s.N) :
    runsCleanly 114 s s.blockDone := by
  have hload : step s = .next s.withBlockLoaded := by
    rw [step_of_agenda_nil hagenda, engineTurn_load hphase, execCLoad_of_lt hN]
  have hexpand : runsCleanly 48 s.withBlockLoaded (s.withBlockLoaded.expanded 48) :=
    run_expands hagenda rfl rfl
  have hround : runsCleanly 64 (s.withBlockLoaded.expanded 48) ((s.withBlockLoaded.expanded 48).rounded 64) :=
    run_rounds hagenda rfl rfl
  have hadd : step ((s.withBlockLoaded.expanded 48).rounded 64) = .next s.blockDone := by
    rw [step_of_agenda_nil (s := (s.withBlockLoaded.expanded 48).rounded 64) hagenda, engineTurn_add (by rfl)]
    rfl
  have hdone : s.blockDone.phase ≠ .fault := by
    simp only [State.blockDone]
    split <;> decide
  have hlast : runsCleanly 1 ((s.withBlockLoaded.expanded 48).rounded 64) s.blockDone :=
    runsCleanly_succ (by simp [State.rounded]) hadd (runsCleanly_zero hdone)
  exact runsCleanly_succ (by simp [hphase]) hload
    (runsCleanly_trans hexpand (runsCleanly_trans hround hlast))

/-! ### The schedule -/

/-- The schedule depends on the first 16 words only: each further word is computed from words below it (R143). -/
theorem getElem_expandFirst_congr {W W' : Vector Word 64} (h : ∀ (k : Nat) (_ : k < 64), k < 16 → W'[k] = W[k])
    {m : Nat} (hm : m ≤ 48) (k : Nat) (hk : k < 64) (hlt : k < 16 + m) :
    (expandFirst W' m)[k] = (expandFirst W m)[k] := by
  induction m generalizing k with
  | zero => exact h k hk hlt
  | succ m ih =>
    have hrange : 16 ≤ 16 + m ∧ 16 + m < 64 := by omega
    have hbelow := ih (by omega)
    simp only [expandFirst, expandAt, dif_pos hrange, scheduleWord_congr hrange hbelow]
    exact getElem_set_congr hrange.2 hbelow k hk hlt

/-- With the block inside the array, LOAD and EXPAND compute its schedule, whatever the schedule held before (R143). -/
theorem expandFirst_loadedSchedule {s : State} (hN : 16 * s.blk + 15 < s.N) :
    expandFirst s.loadedSchedule 48 = schedule (s.M.toList s.N) s.blk := by
  refine Vector.ext fun k hk => getElem_expandFirst_congr (fun q hq hlow => ?_) le_rfl k hk hk
  have hinside : 16 * s.blk + q < s.N := by omega
  rw [getElem_loadedSchedule, if_pos hlow, Vector.getElem_ofFn, if_pos hlow, Mem.getD_toList _ hinside]

/-! ### The blocks -/

/-- The engine has compressed the first `blk` of its blocks, with no turn listed; past the last block it stands in HEX
(R140, R154). -/
structure State.betweenBlocks (s : State) : Prop where
  noTurn : s.agenda = []
  inside : s.blk ≤ s.nblk
  phase : s.phase = if s.blk = s.nblk then .hex else .load
  wordCount : s.N = 16 * s.nblk
  hash : s.H = compressFirst (s.M.toList s.N) s.blk
  position : s.blk = s.nblk → s.p = 0

theorem State.betweenBlocks.phase_ne_fault {s : State} (h : s.betweenBlocks) : s.phase ≠ .fault := by
  rw [h.phase]
  split <;> decide

theorem State.betweenBlocks.block_inside {s : State} (h : s.betweenBlocks) (hblk : s.blk < s.nblk) :
    16 * s.blk + 15 < s.N := by
  rw [h.wordCount]
  omega

/-- The steps of one block make the functional level's step from `blk` blocks to one more (R140). -/
theorem State.betweenBlocks.blockDone {s : State} (h : s.betweenBlocks) (hblk : s.blk < s.nblk) :
    s.blockDone.betweenBlocks where
  noTurn := h.noTurn
  inside := hblk
  phase := rfl
  wordCount := h.wordCount
  hash := by
    change addWords s.H s.blockVars = compressFirst (s.M.toList s.N) (s.blk + 1)
    rw [State.blockVars, expandFirst_loadedSchedule (h.block_inside hblk), h.hash, compressFirst]
  position := fun hlast => if_pos hlast

/-- With `k` blocks left, `114 * k` steps compress them. -/
theorem run_compresses_rest {k : Nat} {s : State} (h : s.betweenBlocks) (hk : s.nblk - s.blk = k) :
    ∃ t, runsCleanly (114 * k) s t ∧ t.betweenBlocks ∧ t.blk = t.nblk ∧
      t = { s with H := t.H, v := t.v, W := t.W, blk := t.blk, t := t.t, p := t.p, phase := t.phase } := by
  induction k generalizing s with
  | zero => exact ⟨s, runsCleanly_zero h.phase_ne_fault, h, h.inside.antisymm (Nat.le_of_sub_eq_zero hk), rfl⟩
  | succ k ih =>
    have hblk : s.blk < s.nblk := by omega
    have hblock : runsCleanly 114 s s.blockDone :=
      run_block h.noTurn (h.phase.trans (if_neg hblk.ne)) (h.block_inside hblk)
    obtain ⟨t, hrest, hbetween, hend, hframe⟩ := ih (h.blockDone hblk) (show s.nblk - (s.blk + 1) = k by omega)
    have hrun : runsCleanly (114 + 114 * k) s t := runsCleanly_trans hblock hrest
    rw [show 114 * (k + 1) = 114 + 114 * k by omega]
    exact ⟨t, hrun, hbetween, hend, hframe⟩

/-- `P.CHECK` and `C.INIT` stand before the first block, with the initialisation vector in the Hash State. -/
theorem run_to_first_block {s : State} (hphase : s.phase = .check) (hagenda : s.agenda = [])
    (hN : s.N = 16 * s.nblk) : runsCleanly 2 s s.withInitialHash := by
  have hwhole : ¬ s.N % 16 ≠ 0 := by omega
  have hcheck : step s = .next { s with phase := .init } := by
    rw [step_of_agenda_nil hagenda, engineTurn_check hphase, execPCheck, if_neg hwhole]
  have hinit : step { s with phase := .init } = .next s.withInitialHash := by
    rw [step_of_agenda_nil (s := { s with phase := .init }) hagenda, engineTurn_init rfl, execCInit_eq]
    rfl
  exact runsCleanly_succ (by simp [hphase]) hcheck
    (runsCleanly_succ (by simp) hinit (runsCleanly_zero (by simp [State.withInitialHash])))

theorem State.betweenBlocks_withInitialHash {s : State} (hagenda : s.agenda = []) (hpos : 0 < s.nblk)
    (hN : s.N = 16 * s.nblk) : s.withInitialHash.betweenBlocks where
  noTurn := hagenda
  inside := Nat.zero_le s.nblk
  phase := (if_neg (show (0 : Nat) ≠ s.nblk from hpos.ne)).symm
  wordCount := hN
  hash := rfl
  position := fun hlast => absurd hlast hpos.ne

/-- Settles O52: two steps lead to the first block, and past the last one the Hash State is `compress` of the array. -/
theorem compressionComputesCompress : Obligations.CompressionComputesCompress := by
  intro s hphase hagenda hpos hN
  obtain ⟨t, hrun, hbetween, hend, hframe⟩ :=
    run_compresses_rest (State.betweenBlocks_withInitialHash hagenda hpos hN) (Nat.sub_zero s.nblk)
  have hM : t.M = s.M := by rw [hframe]; rfl
  have htN : t.N = s.N := by rw [hframe]; rfl
  have hnblk : t.nblk = s.nblk := by rw [hframe]; rfl
  have hhash : t.H = compress (s.M.toList s.N) s.nblk := by
    rw [hbetween.hash, hM, htN, hend, hnblk, compress]
  exact ⟨t, runsCleanly_trans (run_to_first_block hphase hagenda hN) hrun,
    hbetween.phase.trans (if_pos hend), hbetween.position hend, hhash, hframe⟩

end Machine

end Sys2Proof
end

section
/-! PROOFS. The tables are root fractions (R141, R142): the primes by trial division, and the first 32 bits of the
fraction of a root by comparing powers of whole numbers. -/

namespace Sys2Proof

/-- The numbers below `N` that satisfy `p`, in order, are the first values of `Nat.nth p`. -/
theorem nth_eq_getElem_filter_range (p : ℕ → Prop) [DecidablePred p] {N k : ℕ}
    (hk : k < ((List.range N).filter p).length) : Nat.nth p k = ((List.range N).filter p)[k] := by
  induction N with
  | zero => exact absurd hk (Nat.not_lt_zero k)
  | succ N ih =>
    have hlength : ((List.range N).filter p).length = Nat.count p N := List.countP_eq_length_filter.symm
    simp only [List.range_succ, List.filter_append] at hk ⊢
    by_cases hbelow : k < ((List.range N).filter p).length
    · rw [List.getElem_append_left hbelow, ih hbelow]
    · by_cases hN : p N
      · have hend : k = Nat.count p N := by
          have hle : k < ((List.range N).filter p).length + 1 := by simpa [hN] using hk
          omega
        subst hend
        simp [hlength, hN]
      · exact absurd (by simpa [hN] using hk) hbelow

namespace Machine

/-- The first 64 primes. -/
def primeTable : Vector ℕ 64 :=
  #v[2, 3, 5, 7, 11, 13, 17, 19, 23, 29, 31, 37, 41, 43, 47, 53, 59, 61, 67, 71, 73, 79, 83, 89, 97, 101, 103, 107, 109,
    113, 127, 131, 137, 139, 149, 151, 157, 163, 167, 173, 179, 181, 191, 193, 197, 199, 211, 223, 227, 229, 233, 239,
    241, 251, 257, 263, 269, 271, 277, 281, 283, 293, 307, 311]

/-- No number up to 17 that is small enough to matter divides `n`. -/
abbrev PassesTrialDivision (n : ℕ) : Prop := 2 ≤ n ∧ ∀ m < 18, 2 ≤ m ∧ m * m ≤ n → ¬ m ∣ n

theorem prime_iff_passesTrialDivision {n : ℕ} (h : n < 18 ^ 2) : n.Prime ↔ PassesTrialDivision n := by
  rw [Nat.prime_def_le_sqrt]
  refine and_congr_right fun _ =>
    ⟨fun hdiv m _ ⟨h2, hsq⟩ => hdiv m h2 (Nat.le_sqrt.mpr hsq), fun hdiv m h2 hsqrt => ?_⟩
  have hsq : m * m ≤ n := Nat.le_sqrt.mp hsqrt
  exact hdiv m (by nlinarith) ⟨h2, hsq⟩

theorem filter_prime_range : (List.range 312).filter (fun n => decide n.Prime) = primeTable.toList := by
  have htrial : ∀ n ∈ List.range 312, decide n.Prime = decide (PassesTrialDivision n) := fun n hn =>
    decide_eq_decide.mpr (prime_iff_passesTrialDivision ((List.mem_range.mp hn).trans (by decide)))
  rw [List.filter_congr htrial]
  decide +kernel

theorem nth_prime_eq_primeTable (k : Fin 64) : Nat.nth Nat.Prime k = primeTable[k] := by
  have hk : k.1 < ((List.range 312).filter (fun n => decide n.Prime)).length := by
    rw [filter_prime_range, Vector.length_toList]
    exact k.2
  rw [nth_eq_getElem_filter_range Nat.Prime hk]
  simp only [filter_prime_range, Vector.getElem_toList, Fin.getElem_fin]

/-- `c` is the first 32 bits of the fraction of the `n`-th root of `q`, compared in whole numbers: behind some integer
part `a` (the roots of the tables are below 7), the scaled root lies from `2^32 * a + c` up to the next whole number. -/
abbrev IsRootFraction (n q c : ℕ) : Prop :=
  ∃ a < 7, (2 ^ 32 * a + c) ^ n ≤ q * (2 ^ 32) ^ n ∧ q * (2 ^ 32) ^ n < (2 ^ 32 * a + c + 1) ^ n

/-- The comparison of powers is the one of the roots, since powers are monotone. -/
theorem floor_fract_root {r : ℝ} {n q c : ℕ} (hr : 0 ≤ r) (hn : n ≠ 0) (hroot : r ^ n = q) (hc : c < 2 ^ 32)
    (h : IsRootFraction n q c) : ⌊Int.fract r * 2 ^ 32⌋₊ = c := by
  obtain ⟨a, -, hlow, hhigh⟩ := h
  have hpow : (r * 2 ^ 32) ^ n = q * (2 ^ 32) ^ n := by rw [mul_pow, hroot]
  have hlow' : 2 ^ 32 * a + c ≤ r * 2 ^ 32 := by
    refine le_of_pow_le_pow_left₀ hn (by positivity) ?_
    rw [hpow]
    exact_mod_cast hlow
  have hhigh' : r * 2 ^ 32 < 2 ^ 32 * a + c + 1 := by
    refine lt_of_pow_lt_pow_left₀ n (by positivity) ?_
    rw [hpow]
    exact_mod_cast hhigh
  have hc' : (c : ℝ) + 1 ≤ 2 ^ 32 := by exact_mod_cast hc
  have hc0 : (0 : ℝ) ≤ c := c.cast_nonneg
  have hinteger : ⌊r⌋ = (a : ℤ) := by
    rw [Int.floor_eq_iff, Int.cast_natCast]
    constructor <;> linarith
  rw [Int.fract, hinteger, Int.cast_natCast, Nat.floor_eq_iff (by linarith)]
  constructor <;> linarith

theorem isRootFraction_IV : ∀ k : Fin 8, IsRootFraction 2 primeTable[k] (IV[k]).toNat := by decide +kernel

theorem isRootFraction_K : ∀ k : Fin 64, IsRootFraction 3 primeTable[k] (K[k]).toNat := by decide +kernel

/-- Settles O29: square root and cube root are the numbers whose powers are the primes of the table. -/
theorem tablesAreRootFractions : Obligations.TablesAreRootFractions := by
  refine ⟨fun k => ?_, fun k => ?_⟩
  · have hprime : Nat.nth Nat.Prime k = primeTable[k] := nth_prime_eq_primeTable (k.castLE (by decide))
    have hroot : Real.sqrt (primeTable[k] : ℕ) ^ 2 = (primeTable[k] : ℕ) := Real.sq_sqrt (Nat.cast_nonneg _)
    rw [hprime]
    exact (floor_fract_root (Real.sqrt_nonneg _) (by decide) hroot (IV[k]).isLt (isRootFraction_IV k)).symm
  · have hroot : ((primeTable[k] : ℕ) ^ (1 / 3 : ℝ) : ℝ) ^ 3 = (primeTable[k] : ℕ) := by
      rw [← Real.rpow_natCast, ← Real.rpow_mul (Nat.cast_nonneg _)]
      norm_num
    rw [nth_prime_eq_primeTable k]
    exact (floor_fract_root (by positivity) (by decide) hroot (K[k]).isLt (isRootFraction_K k)).symm

end Machine

end Sys2Proof
end

section
/-! PROOFS. Nibbles and characters as arithmetic, and what they say of the Hex String (R82, R83, R170, R171, R173). -/

namespace Sys2Proof.Machine

/-- The digits stand at 0x30 and the letters at 0x61 = 0x57 + 10 (R82). -/
theorem hexchar_toNat (d : Nibble) :
    (hexchar d).toNat = if d.toNat ≤ 9 then 0x30 + d.toNat else 0x57 + d.toNat := by
  have hd : d.toNat < 16 := d.isLt
  by_cases hdigit : d.toNat ≤ 9
  · rw [hexchar, if_pos (BitVec.le_def.mpr hdigit), if_pos hdigit, BitVec.toNat_add,
      BitVec.toNat_setWidth_of_le (by decide)]
    exact Nat.mod_eq_of_lt (show 48 + d.toNat < 256 by omega)
  · rw [hexchar, if_neg (mt BitVec.le_def.mp hdigit), if_neg hdigit, BitVec.toNat_add,
      BitVec.toNat_setWidth_of_le (by decide)]
    exact Nat.mod_eq_of_lt (show 87 + d.toNat < 256 by omega)

/-- The digits lie below the letters, so no two nibbles share a character. -/
theorem hexchar_injective : Function.Injective hexchar := by
  intro d e h
  have hnat := congrArg BitVec.toNat h
  rw [hexchar_toNat, hexchar_toNat] at hnat
  refine BitVec.eq_of_toNat_eq ?_
  split_ifs at hnat <;> omega

theorem hexchar_range (d : Nibble) :
    (0x30#8 ≤ hexchar d ∧ hexchar d ≤ 0x39#8) ∨ (0x61#8 ≤ hexchar d ∧ hexchar d ≤ 0x66#8) := by
  have hd : d.toNat < 16 := d.isLt
  simp only [BitVec.le_def, hexchar_toNat, BitVec.toNat_ofNat, Nat.reducePow, Nat.reduceMod]
  split <;> omega

/-- A nibble is a base-16 digit of its word, the most significant one first (R171). -/
theorem nib_toNat (H : Vector Word 8) (q : Fin 64) :
    (nib H q).toNat = (H[q.1 / 8]).toNat / 16 ^ (7 - q.1 % 8) % 16 := by
  have hshift : 2 ^ (28 - 4 * (q.1 % 8)) = 16 ^ (7 - q.1 % 8) := by
    rw [show 28 - 4 * (q.1 % 8) = 4 * (7 - q.1 % 8) by omega, Nat.pow_mul]
  rw [nib, BitVec.toNat_setWidth, BitVec.toNat_and, BitVec.toNat_ushiftRight, Nat.shiftRight_eq_div_pow, hshift]
  exact (congrArg (· % 16) (Nat.and_two_pow_sub_one_eq_mod _ 4)).trans (Nat.mod_mod _ 16)

/-- Bit `4 * j + b` of a word is bit `b` of its nibble `7 - j` (R171). -/
theorem getLsbD_nib (H : Vector Word 8) (q : Fin 64) {b : Nat} (hb : b < 4) :
    (nib H q).getLsbD b = (H[q.1 / 8]).getLsbD (28 - 4 * (q.1 % 8) + b) := by
  have hmask : (0xF#32).getLsbD b = true := by interval_cases b <;> rfl
  rw [nib, BitVec.getLsbD_setWidth, BitVec.getLsbD_and, hmask, BitVec.getLsbD_ushiftRight]
  simp [hb]

/-- Every bit of the Hash State lies in one of the 64 nibbles. -/
theorem eq_of_nib_eq {H G : Vector Word 8} (h : ∀ q, nib H q = nib G q) : H = G := by
  refine Vector.ext fun k hk => BitVec.eq_of_getLsbD_eq fun j hj => ?_
  have hbit := congrArg (fun d : Nibble => d.getLsbD (j % 4)) (h ⟨8 * k + (7 - j / 4), by omega⟩)
  have hword : (8 * k + (7 - j / 4)) / 8 = k := by omega
  have hplace : 28 - 4 * ((8 * k + (7 - j / 4)) % 8) + j % 4 = j := by omega
  simpa only [getLsbD_nib _ _ (Nat.mod_lt j (by decide : 0 < 4)), hword, hplace] using hbit

@[simp] theorem getElem_toHex (H : Vector Word 8) {k : Nat} (hk : k < 64) :
    (toHex H)[k] = hexchar (nib H ⟨k, hk⟩) := Vector.getElem_ofFn hk

/-- Settles O38: each of the 64 characters is the character of a nibble. -/
theorem hexAlphabet : Obligations.HexAlphabet := by
  refine fun H => ⟨Vector.length_toList, fun c hc => ?_⟩
  obtain ⟨k, hk, rfl⟩ := Vector.mem_iff_getElem.mp (Vector.mem_toList_iff.mp hc)
  rw [getElem_toHex]
  exact hexchar_range _

/-- Settles O39: equal characters come from equal nibbles, and the nibbles are the whole of the Hash State. -/
theorem hexStringDeterminesState : Obligations.HexStringDeterminesState := by
  refine fun H G h => eq_of_nib_eq fun q => hexchar_injective ?_
  rw [← getElem_toHex H q.2, ← getElem_toHex G q.2, h]

end Sys2Proof.Machine
end

section
/-! PROOFS. The row of the Hex Encoder as the one state it leads to (R172). -/

namespace Sys2Proof.Machine

/-- The Hex String `X` with character `p` rendered from `H` (R172). -/
def renderAt (H : Vector Word 8) (X : Vector Byte 64) (p : Nat) : Vector Byte 64 :=
  if h : p < 64 then X.set p (hexchar (nib H ⟨p, h⟩)) else X

/-- Rendering writes the character at `p` and no other. -/
theorem getElem_renderAt (H : Vector Word 8) (X : Vector Byte 64) {p q : Nat} (hp : p < 64) (hq : q < 64) :
    (renderAt H X p)[q] = if p = q then (toHex H)[q] else X[q] := by
  rw [renderAt, dif_pos hp, Vector.getElem_set]
  by_cases hpq : p = q
  · subst hpq
    simp
  · rw [if_neg hpq, if_neg hpq]

/-- The state after `X.NIB` inside its space (R172). -/
def State.withNibbleRendered (s : State) : State :=
  { s with
    X := renderAt s.H s.X s.p, p := if s.p = 63 then s.p else s.p + 1, phase := if s.p = 63 then .done else .hex }

theorem execXNib_of_lt {s : State} (h : s.p < 64) : execXNib s = .next s.withNibbleRendered := by
  rw [execXNib, State.withNibbleRendered, renderAt, dif_pos h, dif_pos h]

/-- Settles O37: the row writes the character of the nibble, which is a base-16 digit of its word, and branches on
whether it was the last. -/
theorem nibbleIsRendered : Obligations.NibbleIsRendered := by
  intro s hp
  have hrange : s.p < 64 := by omega
  have hwritten : s.withNibbleRendered.X[s.p] = (toHex s.H)[s.p] :=
    (getElem_renderAt s.H s.X hrange hrange).trans (if_pos rfl)
  have hchar := congrArg BitVec.toNat hwritten
  rw [getElem_toHex, hexchar_toNat, nib_toNat] at hchar
  exact ⟨s.withNibbleRendered, _, execXNib_of_lt hrange, rfl, fun hdigit => hchar.trans (if_pos hdigit),
    fun hletter => hchar.trans (if_neg (Nat.not_le.mpr hletter)),
    fun q hq => (getElem_renderAt s.H s.X hrange q.2).trans (if_neg hq.symm),
    fun hlast => ⟨(if_pos hlast).trans hlast, if_pos hlast⟩, fun hlt => ⟨if_neg hlt.ne, if_neg hlt.ne⟩, rfl⟩

end Sys2Proof.Machine
end

section
/-! PROOFS. Phase HEX computes `toHex` (R170, R173): its `k`-th step renders character `k`. -/

namespace Sys2Proof.Machine

/-- The Hex String `X` with its first `k` characters rendered from `H`. -/
def renderedFirst (H : Vector Word 8) (X : Vector Byte 64) : Nat → Vector Byte 64
  | 0 => X
  | k + 1 => renderAt H (renderedFirst H X k) k

/-- A character once rendered stays. -/
theorem getElem_renderedFirst (H : Vector Word 8) (X : Vector Byte 64) {k q : Nat} (hq : q < k) (hk : k ≤ 64) :
    (renderedFirst H X k)[q] = (toHex H)[q] := by
  induction k with
  | zero => exact absurd hq (Nat.not_lt_zero q)
  | succ k ih =>
    rw [renderedFirst, getElem_renderAt H _ (by omega) (by omega)]
    by_cases hlast : k = q
    · exact if_pos hlast
    · exact (if_neg hlast).trans (ih (by omega) (by omega))

theorem renderedFirst_all (H : Vector Word 8) (X : Vector Byte 64) : renderedFirst H X 64 = toHex H :=
  Vector.ext fun _ hq => getElem_renderedFirst H X hq le_rfl

/-- The state after `k` steps of phase HEX. -/
def State.formatted (s : State) (k : Nat) : State :=
  { s with X := renderedFirst s.H s.X k, p := min k 63, phase := if k = 64 then .done else .hex }

theorem State.formatted_zero {s : State} (hphase : s.phase = .hex) (hp : s.p = 0) : s.formatted 0 = s := by
  cases s
  cases hphase
  cases hp
  rfl

theorem step_formatted {s : State} (hagenda : s.agenda = []) {k : Nat} (hk : k < 64) :
    step (s.formatted k) = .next (s.formatted (k + 1)) := by
  have hphase : (s.formatted k).phase = .hex := if_neg hk.ne
  have hp : (s.formatted k).p = k := Nat.min_eq_left (by omega)
  have hposition : (if k = 63 then k else k + 1) = min (k + 1) 63 := by split <;> omega
  have hlast : k = 63 ↔ k + 1 = 64 := by omega
  rw [step_of_agenda_nil (s := s.formatted k) hagenda, engineTurn_hex hphase, execXNib_of_lt (by omega),
    State.withNibbleRendered, hp, hposition]
  simp only [State.formatted, renderedFirst, hlast]

/-- Settles O53: 64 steps render the 64 characters. -/
theorem formatterComputesToHex : Obligations.FormatterComputesToHex := by
  intro s hphase hagenda hp
  have hclean (k : Nat) (_ : k ≤ 64) : (s.formatted k).phase ≠ .fault := by
    simp only [State.formatted]
    split <;> decide
  have hrun : runsCleanly 64 s (s.formatted 64) := by
    have hchain := runsCleanly_of_chain hclean fun _ => step_formatted hagenda
    rwa [State.formatted_zero hphase hp] at hchain
  exact ⟨s.formatted 64, hrun, rfl, rfl, renderedFirst_all s.H s.X, rfl⟩

end Sys2Proof.Machine
end

section
/-! PROOFS. What a step runs (R30, R180, R186): the instruction that the host's packet or the engine's selector
encodes. -/

namespace Sys2Proof.Machine

theorem hostTurn_of_decode {p : Packet} {i : Instr} {s : State} (hfmt : hostFormat p.format = true)
    (hdec : decode p = .instr i) : hostTurn p s = exec i s := by
  rw [hostTurn, if_pos hfmt, runPacket, hdec]

/-- The access to `T[i]` that phase ENC makes first is the only condition on a busy engine's turn (R102). -/
theorem engineTurn_of_decode {i : Instr} {s : State} (hbusy : s.busy = true) (henc : s.phase = .enc → s.i < s.n)
    (hdec : decode (selector s) = .instr i) : engineTurn s = exec i s := by
  have hrun : runPacket (selector s) s = exec i s := by rw [runPacket, hdec]
  rw [engineTurn, if_pos hbusy]
  split
  · rename_i hph
    rw [inRange_of_lt (henc hph), hrun]
  · exact hrun

/-- Settles O6: the turn runs what it decodes, and neither the selector nor the condition of ENC looks at the turns. -/
theorem stepRunsDecodedInstruction : Obligations.StepRunsDecodedInstruction := by
  intro s i rest
  refine ⟨fun p hagenda hfmt hdec => ?_, fun hbusy henc hdec => ⟨fun hagenda => ?_, fun hagenda => ?_⟩⟩
  · rw [step_of_host_turn hagenda, hostTurn_of_decode hfmt hdec]
  · rw [step_of_agenda_nil hagenda, engineTurn_of_decode hbusy henc hdec]
  · rw [step_of_engine_turn hagenda]
    exact engineTurn_of_decode (s := s.withAgenda rest) hbusy henc hdec

end Sys2Proof.Machine
end

section
/-! PROOFS. The host commands, one outcome per case (R181 to R185, R220). -/

namespace Sys2Proof.Machine

open Claims

/-! ### Flags and status -/

theorem State.done_iff {s : State} : s.done = true ↔ s.phase = .done := decide_eq_true_iff

theorem State.faulted_iff {s : State} : s.faulted = true ↔ s.phase = .fault := decide_eq_true_iff

/-- The bits of the status from the lowest up: phase, fault code, busy, done (R33). -/
theorem getLsbD_statusByte (s : State) {k : Nat} (hk : k < 8) :
    s.statusByte.getLsbD k =
      if k < 4 then s.phase.code.getLsbD k else if k < 6 then s.fcode.code.getLsbD (k - 4)
      else if k = 6 then s.busy else if k = 7 then s.done else false := by
  have hword : (encode (.status s.done s.busy s.fcode.code s.phase.code)).word = s.statusByte.setWidth 32 := rfl
  rw [← getLsbD_encode_status, hword, BitVec.getLsbD_setWidth, decide_eq_true (by omega), Bool.true_and]

/-- Settles O13: the fields of the status stand where R33 puts them, and `RDSTAT` hands the status over. -/
theorem statusIsReturned : Obligations.StatusIsReturned := by
  intro s
  refine ⟨s.respond (.status s.statusByte), s.statusByte, rfl, rfl, ?_, ?_, ?_,
    getLsbD_statusByte s (k := 7) (by decide), rfl⟩
  · ext k hk
    rw [BitVec.getElem_extractLsb', getLsbD_statusByte s (by omega), if_pos (by omega), Nat.zero_add,
      BitVec.getLsbD_eq_getElem]
  · ext k hk
    rw [BitVec.getElem_extractLsb', getLsbD_statusByte s (by omega), if_neg (by omega), if_pos (by omega),
      Nat.add_sub_cancel_left, BitVec.getLsbD_eq_getElem]
  · rw [getLsbD_statusByte s (k := 6) (by decide)]
    simp [State.busy, BitVec.le_def]

/-! ### START -/

theorem exec_start_of_ready {s : State} {text : List CodeUnit} (hfits : Config.textFits s.maxUnits text.length = true)
    (hready : s.ready = true) : exec (.start text) s = .next (s.latch text) :=
  (if_pos hfits).trans (if_pos hready)

theorem exec_start_of_not_ready {s : State} {text : List CodeUnit}
    (hfits : Config.textFits s.maxUnits text.length = true) (hready : ¬ s.ready = true) :
    exec (.start text) s = .next s :=
  (if_pos hfits).trans (if_neg hready)

theorem read_latch (s : State) {text : List CodeUnit} {k : Nat} (hk : k < text.length) :
    (s.latch text).T.read k = text[k] := by
  simp [Mem.read_ofListFrom, hk]

/-- An invocation begins busy, in SIZE or in ENC (R34). -/
theorem busy_latch (s : State) (text : List CodeUnit) : (s.latch text).busy = true := by
  by_cases hempty : text.length = 0
  · simp [State.busy, hempty, Phase.code]
  · simp [State.busy, hempty, Phase.code]

theorem done_latch (s : State) (text : List CodeUnit) : (s.latch text).done = false := by
  by_cases hempty : text.length = 0
  · simp [State.done, hempty]
  · simp [State.done, hempty]

/-- Settles O11: IDLE and DONE are the phases in which the engine is ready, and there the text is latched. -/
theorem startLatchesText : Obligations.StartLatchesText := by
  intro s text hfits
  constructor
  · intro hready
    have hlatch := exec_start_of_ready hfits (State.ready_iff.mpr hready)
    exact ⟨s.latch text, hlatch, fun _ => read_latch s, rfl, rfl, rfl, rfl, fun h => if_pos h, fun h => if_neg h,
      busy_latch s text, done_latch s text, rfl⟩
  · intro hidle hdone
    exact exec_start_of_not_ready hfits fun hready => (State.ready_iff.mp hready).elim hidle hdone

/-! ### RESET -/

theorem statusByte_afterReset (s : State) : s.afterReset.statusByte = 0x00#8 := by
  simp [State.statusByte, State.done, State.busy, Phase.code, FCode.code]

/-- Settles O9: the phase and the fault code after `RESET` make the status zero, and in IDLE the engine waits. -/
theorem resetLeavesIdle : Obligations.ResetLeavesIdle := by
  intro s
  obtain ⟨hwf, -, -⟩ := s.inv_afterReset
  refine ⟨s.afterReset, rfl, rfl, rfl, statusByte_afterReset s, hwf, rfl, rfl, rfl, rfl, ?_⟩
  rw [step_of_agenda_nil (by rfl), engineTurn_waiting (.inl rfl)]

/-! ### RDHEX -/

theorem exec_rdhex_of_done {s : State} (h : s.phase = .done) : exec .rdhex s = .next (s.respond (.hex s.X)) :=
  if_pos (State.done_iff.mpr h)

theorem exec_rdhex_of_not_done {s : State} (h : s.phase ≠ .done) :
    exec .rdhex s = .next { s.respond (.hex (Config.freeHex s.draws)) with draws := s.draws + 1 } :=
  if_neg (State.done_iff.not.mpr h)

/-- Settles O15: in DONE a read changes the response only, so a second one hands over the same. -/
theorem hexStringIsReturned : Obligations.HexStringIsReturned := by
  intro s
  by_cases hdone : s.phase = .done
  · exact ⟨s.respond (.hex s.X), exec_rdhex_of_done hdone, rfl, rfl,
      fun _ => ⟨rfl, exec_rdhex_of_done (s := s.respond (.hex s.X)) hdone, rfl⟩, fun h => absurd hdone h⟩
  · exact ⟨_, exec_rdhex_of_not_done hdone, rfl, rfl, fun h => absurd h hdone, fun _ => ⟨_, rfl⟩⟩

/-! ### DIGEST and its polls -/

/-- Settles O16: the two turns of the expansion go before the turns listed. -/
theorem digestExpands : Obligations.DigestExpands := fun s text =>
  ⟨s.withAgenda (.host (encode (.start text)) :: .poll :: s.agenda), rfl, rfl, rfl⟩

theorem pollTurn_of_done {s : State} (h : s.phase = .done) :
    pollTurn s = .next ((s.respond (.status s.statusByte)).withAgenda (.host (encode .rdhex) :: s.agenda)) :=
  if_pos (State.done_iff.mpr h)

theorem pollTurn_of_fault {s : State} (h : s.phase = .fault) :
    pollTurn s = .next (s.respond (.status s.statusByte)) := by
  have hdone : ¬ s.done = true := by simp [State.done_iff, h]
  exact (if_neg hdone).trans (if_pos (State.faulted_iff.mpr h))

theorem pollTurn_of_running {s : State} (hdone : s.phase ≠ .done) (hfault : s.phase ≠ .fault) :
    pollTurn s = .next ((s.respond (.status s.statusByte)).withAgenda (.engine :: .poll :: s.agenda)) :=
  (if_neg (State.done_iff.not.mpr hdone)).trans (if_neg (State.faulted_iff.not.mpr hfault))

/-- Settles O8, by the three cases of the loop: done, faulted, running. -/
theorem pollingLoopFollowsStatus : Obligations.PollingLoopFollowsStatus := by
  intro s rest hagenda
  rw [step_of_poll_turn hagenda]
  by_cases hdone : s.phase = .done
  · exact ⟨_, pollTurn_of_done (s := s.withAgenda rest) hdone, rfl, rfl, fun _ => rfl,
      fun hfault => absurd (hdone.symm.trans hfault) (by decide), fun h => absurd hdone h⟩
  by_cases hfault : s.phase = .fault
  · exact ⟨_, pollTurn_of_fault (s := s.withAgenda rest) hfault, rfl, rfl, fun h => absurd h hdone, fun _ => rfl,
      fun _ h => absurd hfault h⟩
  · exact ⟨_, pollTurn_of_running (s := s.withAgenda rest) hdone hfault, rfl, rfl, fun h => absurd h hdone,
      fun h => absurd h hfault, fun _ _ => rfl⟩

end Sys2Proof.Machine
end

section
/-! PROOFS. Under the invariant a busy engine takes an edge of the transition graph (R186): the bounds of each phase let
its operation complete, and the condition the operation branches on is the condition of the edge. -/

namespace Sys2Proof.Machine

/-- The engine's turn completes, and the two phases are an edge of the transition graph. -/
def State.takesEdge (s : State) : Prop := ∃ t, engineTurn s = .next t ∧ edge s t.phase

/-- In a phase that is known, the edges are those of that phase. -/
theorem State.takesEdge_of_turn {s t : State} {ph : Phase} (hph : s.phase = ph) (hturn : engineTurn s = .next t)
    (hedge : edge { s with phase := ph } t.phase) : s.takesEdge := by
  subst hph
  exact ⟨t, hturn, hedge⟩

/-- A phase chosen by a condition takes one of the two edges that the condition tells apart. -/
theorem edge_of_branch {c P Q : Prop} [Decidable c] {a b : Phase} (hP : c → P) (hQ : ¬ c → Q) :
    ((if c then a else b) = a ∧ P) ∨ ((if c then a else b) = b ∧ Q) := by
  by_cases hc : c
  · exact .inl ⟨if_pos hc, hP hc⟩
  · exact .inr ⟨if_neg hc, hQ hc⟩

/-- From inside the text the encoder goes on, ends, or finds the limit passed (R108, R202). -/
theorem State.takesEdge_of_enc {s : State} (hph : s.phase = .enc) (hi : s.i < s.n) : s.takesEdge := by
  have hturn := engineTurn_enc hph hi
  by_cases hlimit : s.nb + (emit (resolve s.T s.n s.i).1).length ≤ Config.maxBytes
  · have hinside := resolve_advance_le s.T hi
    exact takesEdge_of_turn hph (hturn.trans (appendAdvance_of_le hi hlimit))
      (or_assoc.mp (.inl (edge_of_branch id hinside.lt_of_ne).symm))
  · have hover := Nat.lt_of_not_le hlimit
    exact takesEdge_of_turn hph (hturn.trans (appendAdvance_of_gt hi hover)) (.inr (.inr ⟨rfl, hover⟩))

/-- Whatever `P.CHECK` finds, it completes (R126, R204). -/
theorem State.takesEdge_of_check {s : State} (hph : s.phase = .check) : s.takesEdge := by
  have hturn := engineTurn_check hph
  by_cases hwhole : s.N % 16 = 0
  · exact takesEdge_of_turn hph (hturn.trans (if_neg (not_not_intro hwhole))) (.inl ⟨rfl, hwhole⟩)
  · exact takesEdge_of_turn hph (hturn.trans (if_pos hwhole)) (.inr ⟨rfl, hwhole⟩)

/-- Phase by phase, the invariant's bounds are what the phase's operation needs. -/
theorem State.Inv.takesEdge {s : State} (hs : s.Inv) (hbusy : s.busy = true) : s.takesEdge := by
  obtain ⟨-, -, hphase⟩ := hs
  revert hphase
  unfold State.phaseInv
  cases hph : s.phase with
  | idle | done | fault => simp [State.busy, hph, Phase.code] at hbusy
  | enc => exact fun ⟨hi, _⟩ => takesEdge_of_enc hph hi
  | size =>
    exact fun _ => takesEdge_of_turn hph ((engineTurn_size hph).trans (execPSize_eq s))
      (edge_of_branch id Nat.pos_of_ne_zero)
  | pack =>
    rintro ⟨hsized, hj⟩
    have hroom := hsized.room
    exact takesEdge_of_turn hph ((engineTurn_pack hph).trans (execPPack_of_lt hj (by omega)))
      (edge_of_branch id (lt_of_le_of_ne hj)).symm
  | mark =>
    rintro ⟨hsized, -⟩
    have hroom := hsized.room
    exact takesEdge_of_turn hph ((engineTurn_mark hph).trans (execPMark_of_lt (by omega))) rfl
  | len =>
    rintro ⟨hsized, -⟩
    have hroom := hsized.room
    exact takesEdge_of_turn hph ((engineTurn_len hph).trans (execPLen_of_pos (by omega))) rfl
  | check => exact fun _ => takesEdge_of_check hph
  | init => exact fun _ => takesEdge_of_turn hph ((engineTurn_init hph).trans (execCInit_eq s)) rfl
  | load =>
    rintro ⟨hpacked, hblk⟩
    exact takesEdge_of_turn hph ((engineTurn_load hph).trans (execCLoad_of_lt (hpacked.block_inside hblk))) rfl
  | expand =>
    rintro ⟨-, -, hrange⟩
    exact takesEdge_of_turn hph ((engineTurn_expand hph).trans (execCExpand_of_range hrange))
      (edge_of_branch id fun hne => show s.t < 63 by omega).symm
  | round =>
    rintro ⟨-, -, hrange⟩
    exact takesEdge_of_turn hph ((engineTurn_round hph).trans (execCRound_of_lt hrange))
      (edge_of_branch id fun hne => show s.t < 63 by omega).symm
  | add =>
    rintro ⟨-, hblk⟩
    exact takesEdge_of_turn hph ((engineTurn_add hph).trans (execCAdd_eq s))
      (edge_of_branch id (lt_of_le_of_ne hblk)).symm
  | hex =>
    rintro ⟨-, -, hrange⟩
    exact takesEdge_of_turn hph ((engineTurn_hex hph).trans (execXNib_of_lt hrange))
      (edge_of_branch id fun hne => show s.p < 63 by omega).symm

/-- Settles O48: with no turn listed the step is the engine's turn. -/
theorem engineFollowsTransitionGraph : Obligations.EngineFollowsTransitionGraph := by
  intro s hs hnil hbusy
  rw [step_of_agenda_nil hnil]
  exact hs.takesEdge hbusy

end Sys2Proof.Machine
end

section
/-! PROOFS. A whole invocation of an admitted text (R11, R187): the four stages one after another compute
`digestHex`. -/

namespace Sys2Proof

/-- A buffer made of a list holds that list. -/
theorem Mem.toList_ofListFrom {w : Nat} (xs : List (BitVec w)) : (Mem.ofListFrom 0 xs).toList xs.length = xs :=
  List.ext_getElem (Mem.length_toList _ _) fun k _ hk => by simp [Mem.toList, Mem.read_ofListFrom, hk]

namespace Machine

open Claims

/-! ### The latched text -/

theorem unitsFrom_latch (s : State) (text : List CodeUnit) :
    unitsFrom (s.latch text).T (s.latch text).n (s.latch text).i = text := Mem.toList_ofListFrom text

theorem restBytes_latch (s : State) (text : List CodeUnit) : (s.latch text).restBytes = encodeUtf8 text :=
  congrArg encodeUtf8 (unitsFrom_latch s text)

theorem State.betweenItems_latch {s : State} {text : List CodeUnit} (hagenda : s.agenda = [])
    (hlimit : (encodeUtf8 text).length ≤ Config.maxBytes) : (s.latch text).betweenItems where
  noTurn := hagenda
  inside := Nat.zero_le text.length
  phase := if_congr eq_comm rfl rfl
  stream := Mem.wf_nil
  room := by rwa [restBytes_latch, State.latch_nb, Nat.zero_add]

/-! ### The four stages -/

/-- Encoder and padder have computed their functions of the text, no fault is recorded and no turn is listed (R100,
R120). -/
structure State.holdsBlocks (s : State) (text : List CodeUnit) : Prop where
  noTurn : s.agenda = []
  fcode : s.fcode = .none
  stream : s.B.toList s.nb = encodeUtf8 text
  blockCount : s.nblk = blocksFor (encodeUtf8 text).length
  wordCount : s.N = 16 * s.nblk
  words : s.M.toList s.N = (packBlocks (encodeUtf8 text)).words
  bitLength : s.L.setWidth 64 = (packBlocks (encodeUtf8 text)).bitLength
  bitLength_toNat : s.L.toNat = 8 * (encodeUtf8 text).length

/-- What the later stages write is no result of the first two (R62). -/
theorem State.holdsBlocks.of_later_stage {s t : State} {text : List CodeUnit} (h : s.holdsBlocks text)
    (ht : t = { s with
      H := t.H, v := t.v, W := t.W, blk := t.blk, t := t.t, X := t.X, p := t.p, phase := t.phase }) :
    t.holdsBlocks text := by
  obtain ⟨hagenda, hfcode, hstream, hnblk, hN, hwords, hbitLength, hbits⟩ := h
  rw [ht]
  exact ⟨hagenda, hfcode, hstream, hnblk, hN, hwords, hbitLength, hbits⟩

/-- The engine stands in DONE, each stage having computed its function of the text (R187). -/
structure State.holdsDigest (s : State) (text : List CodeUnit) : Prop where
  phase : s.phase = .done
  blocks : s.holdsBlocks text
  hash : s.H = compress (packBlocks (encodeUtf8 text)).words (blocksFor (encodeUtf8 text).length)
  chars : s.X = toHex s.H

theorem State.holdsDigest.hex_eq {s : State} {text : List CodeUnit} (h : s.holdsDigest text) :
    s.X = digestHex text := by
  rw [h.chars, h.hash]
  rfl

/-- From the latched text, the steps of phases ENC to LEN compute the blocks (R101, R127). -/
theorem run_packs_blocks {s : State} {text : List CodeUnit} (hagenda : s.agenda = [])
    (hlimit : (encodeUtf8 text).length ≤ Config.maxBytes) :
    ∃ t, runsCleanly ((items text).length + ((encodeUtf8 text).length + 3)) (s.latch text) t ∧ t.phase = .check ∧
      t.holdsBlocks text := by
  obtain ⟨u, hencode, hsize, -, hstream, hu⟩ :=
    run_encodes_rest (State.betweenItems_latch hagenda hlimit)
      (congrArg (List.length ∘ items) (unitsFrom_latch s text))
  have hbytes : u.B.toList u.nb = encodeUtf8 text := hstream.trans (restBytes_latch s text)
  have hnb : u.nb = (encodeUtf8 text).length := by rw [← hbytes, Mem.length_toList]
  have hnoTurn : u.agenda = [] := (congrArg State.agenda hu).trans hagenda
  obtain ⟨t, hpad, hcheck, hbits, hnblk, hN, hwords, hbitLength, ht⟩ :=
    padderComputesPackBlocks u hsize hnoTurn (hnb.trans_le hlimit)
  rw [hbytes] at hwords hbitLength
  rw [hnb] at hpad hbits hnblk
  refine ⟨t, runsCleanly_trans hencode hpad, hcheck, (congrArg State.agenda ht).trans hnoTurn, ?_, ?_, hnblk, hN,
    hwords, hbitLength, hbits⟩
  · exact (congrArg State.fcode ht).trans (congrArg State.fcode hu)
  · exact (congrArg (fun r : State => r.B.toList r.nb) ht).trans hbytes

/-- From the latched text of an admitted length, `stepCount` steps lead to DONE with the digest (R187, R230). -/
theorem run_computes_digest {s : State} {text : List CodeUnit} (hagenda : s.agenda = [])
    (hlimit : (encodeUtf8 text).length ≤ Config.maxBytes) :
    ∃ t, runsCleanly (stepCount text) (s.latch text) t ∧ t.holdsDigest text := by
  obtain ⟨q, hpack, hcheck, hq⟩ := run_packs_blocks hagenda hlimit
  obtain ⟨c, hcompress, hhex, hp, hhash, hc⟩ :=
    compressionComputesCompress q hcheck hq.noTurn (hq.blockCount ▸ blocksFor_pos _) hq.wordCount
  have hcBlocks : c.holdsBlocks text := hq.of_later_stage (by rw [hc])
  obtain ⟨t, hformat, hdone, -, hchars, ht⟩ := formatterComputesToHex c hhex hcBlocks.noTurn hp
  have hH : t.H = c.H := by rw [ht]
  have hcount : stepCount text =
      (items text).length + ((encodeUtf8 text).length + 3) + (2 + 114 * q.nblk + 64) := by
    rw [hq.blockCount, stepCount]
    omega
  rw [hq.words, hq.blockCount] at hhash
  rw [hcount]
  exact ⟨t, runsCleanly_trans hpack (runsCleanly_trans hcompress hformat), hdone,
    hcBlocks.of_later_stage (by rw [ht]), hH.trans hhash, hH ▸ hchars⟩

theorem State.phase_ne_fault_of_ready {s : State} (h : s.ready = true) : s.phase ≠ .fault := by
  obtain hidle | hdone := State.ready_iff.mp h
  · simp [hidle]
  · simp [hdone]

/-- Settles O54: `START` latches the text, and the four stages follow. -/
theorem invocationComputesDigest : Obligations.InvocationComputesDigest := by
  intro s text hstart hlimit
  have hlatch := step_of_aboutToStart hstart
  obtain ⟨hready, -, -⟩ := hstart
  obtain ⟨t, hrun, ht⟩ := run_computes_digest (s := s.withAgenda []) rfl hlimit
  exact ⟨_, t, runsCleanly_succ (State.phase_ne_fault_of_ready hready) hlatch hrun, ht.phase, ht.blocks.fcode,
    ht.blocks.stream, ht.blocks.words, ht.blocks.bitLength, ht.blocks.bitLength_toNat, ht.hash, ht.hex_eq⟩

end Machine

end Sys2Proof
end

section
/-! PROOFS. A text whose encoding is too long (R187, R202): the engine stays in ENC until an item does not fit, and then
stands in FAULT. -/

namespace Sys2Proof.Machine

open Claims

/-- What every step keeps, every run keeps. -/
theorem run_keeps {P : State → Prop} (hstep : ∀ s t, P s → step s = .next t → P t) {k : Nat} {s t : State}
    (hs : P s) (hrun : Host.Core.run core k s = .next t) : P t := by
  induction k generalizing s with
  | zero =>
    cases hrun
    exact hs
  | succ k ih =>
    obtain ⟨s', hs', hrest⟩ := run_succ_eq_next.mp hrun
    exact ih (hstep s s' hs hs') hrest

/-- The engine is inside its text, with no turn listed, and the rest of the text does not fit the limit. -/
structure State.overrunning (s : State) : Prop where
  noTurn : s.agenda = []
  phase : s.phase = .enc
  inside : s.i < s.n
  admitted : s.nb ≤ Config.maxBytes
  overrun : Config.maxBytes < s.nb + s.restBytes.length

/-- The engine has met the limit and stands in FAULT, with no turn listed (R202, R204). -/
structure State.overflowed (s : State) : Prop where
  noTurn : s.agenda = []
  phase : s.phase = .fault
  fcode : s.fcode = .lengthOverflow

theorem State.overflowed.step_eq {s : State} (h : s.overflowed) : step s = .next s := by
  rw [step_of_agenda_nil h.noTurn, engineTurn_waiting (.inr (.inr h.phase))]

/-- Either the next item does not fit, or it fits and what does not fit is still to come. -/
theorem State.overrunning.step_cases {s : State} (h : s.overrunning) :
    (step s = .next (s.enterFault .lengthOverflow) ∧ (s.enterFault .lengthOverflow).overflowed) ∨
      (step s = .next (s.appended s.nextBytes) ∧ (s.appended s.nextBytes).overrunning) := by
  have hi := h.inside
  rw [step_of_agenda_nil h.noTurn, engineTurn_enc h.phase hi]
  by_cases hfits : s.nb + s.nextBytes.length ≤ Config.maxBytes
  · have hover : Config.maxBytes < s.nb + s.nextBytes.length + (s.appended s.nextBytes).restBytes.length := by
      have hoverrun := h.overrun
      rwa [State.restBytes_eq hi, List.length_append, ← Nat.add_assoc] at hoverrun
    have hmore : s.i + (resolve s.T s.n s.i).2 < s.n := by
      refine (resolve_advance_le s.T hi).lt_of_ne fun hend => ?_
      have hnothing : (s.appended s.nextBytes).restBytes = [] :=
        congrArg encodeUtf8 (unitsFrom_of_le s.T hend.ge)
      rw [hnothing, List.length_nil] at hover
      omega
    exact .inr ⟨appendAdvance_of_le hi hfits, h.noTurn, if_neg hmore.ne, hmore, hfits, hover⟩
  · exact .inl ⟨appendAdvance_of_gt hi (Nat.lt_of_not_le hfits), h.noTurn, rfl, rfl⟩

theorem resolve_advance_pos (T : Mem 16) (n i : Nat) : 0 < (resolve T n i).2 := by
  obtain h | ⟨h, -⟩ := resolve_advance T n i <;> omega

/-- Each item takes a unit, so within as many steps as units are left the engine overflows. -/
theorem State.overrunning.run_overflows {m : Nat} {s : State} (h : s.overrunning) (hm : s.n - s.i ≤ m) :
    ∃ k t, Host.Core.run core k s = .next t ∧ t.overflowed := by
  induction m generalizing s with
  | zero =>
    have hinside := h.inside
    omega
  | succ m ih =>
    obtain ⟨hstep, hover⟩ | ⟨hstep, hmore⟩ := h.step_cases
    · exact ⟨1, _, run_succ_eq_next.mpr ⟨_, hstep, rfl⟩, hover⟩
    · have hpos := resolve_advance_pos s.T s.n s.i
      have hleft : s.n - (s.i + (resolve s.T s.n s.i).2) ≤ m := by omega
      obtain ⟨k, t, hrun, hover⟩ := ih hmore hleft
      exact ⟨k + 1, t, run_succ_eq_next.mpr ⟨_, hstep, hrun⟩, hover⟩

/-- From the overrun on, the engine stays short of DONE for ever. -/
theorem overrunning_or_overflowed_of_step {s t : State} (h : s.overrunning ∨ s.overflowed)
    (hstep : step s = .next t) : t.overrunning ∨ t.overflowed := by
  obtain hrun | hover := h
  · obtain ⟨hnext, h'⟩ | ⟨hnext, h'⟩ := hrun.step_cases
    · cases hstep.symm.trans hnext
      exact .inr h'
    · cases hstep.symm.trans hnext
      exact .inl h'
  · cases hstep.symm.trans hover.step_eq
    exact .inr hover

theorem State.overrunning_latch {s : State} {text : List CodeUnit} (hagenda : s.agenda = [])
    (hover : Config.maxBytes < (encodeUtf8 text).length) : (s.latch text).overrunning := by
  have hpos : 0 < text.length := by
    refine Nat.pos_of_ne_zero fun hzero => ?_
    obtain rfl := List.length_eq_zero_iff.mp hzero
    exact absurd hover (Nat.not_lt_zero _)
  exact ⟨hagenda, if_neg hpos.ne', hpos, Nat.zero_le _, by rwa [restBytes_latch, State.latch_nb, Nat.zero_add]⟩

/-- Settles O55: the latched text overruns the limit; it overflows within its length, and neither while it overruns nor
after that is the phase DONE. -/
theorem overlongTextFaults : Obligations.OverlongTextFaults := by
  intro s text hstart hover
  have hlatch := step_of_aboutToStart hstart
  have hoverrun : ((s.withAgenda []).latch text).overrunning := State.overrunning_latch rfl hover
  refine ⟨?_, fun m u hm hrun => ?_⟩
  · obtain ⟨k, t, hrun, hend⟩ := hoverrun.run_overflows le_rfl
    exact ⟨k + 1, t, run_succ_eq_next.mpr ⟨_, hlatch, hrun⟩, hend.phase, hend.fcode⟩
  · obtain ⟨k, rfl⟩ := Nat.exists_eq_add_of_le' hm
    obtain ⟨s', hstep, hrest⟩ := run_succ_eq_next.mp hrun
    cases hstep.symm.trans hlatch
    obtain h | h := run_keeps (P := fun r => r.overrunning ∨ r.overflowed)
      (fun _ _ => overrunning_or_overflowed_of_step) (.inl hoverrun) hrest
    · simp [h.phase]
    · simp [h.phase]

end Sys2Proof.Machine
end

section
/-! PROOFS. `DIGEST` (R185): the engine does not see the turns listed for the host, so the invocation runs between the
polls as it runs alone. -/

namespace Sys2Proof.Machine

open Claims

/-! ### The engine does not see the host's side -/

/-- The same engine with other turns listed and another value returned to the host. -/
def State.withHost (s : State) (a : List Turn) (r : Option Response) : State := { s with agenda := a, response := r }

/-- An outcome's next state put beside another host's side. -/
def besideHost (a : List Turn) (r : Option Response) : Result → Result
  | .next t => .next (t.withHost a r)
  | .fault f => .fault f
  | .refused why => .refused why

theorem besideHost_inRange (a : List Turn) (r : Option Response) (sp : Space) (k len : Nat) (o : Result) :
    besideHost a r (inRange sp k len o) = inRange sp k len (besideHost a r o) := by
  unfold inRange
  split <;> rfl

/-- The operation does the same beside any other host's side, and leaves that side alone. -/
def HostBlind (op : State → Result) : Prop :=
  ∀ (s : State) (a : List Turn) (r : Option Response), op (s.withHost a r) = besideHost a r (op s)

theorem hostBlind_appendAdvance (out : List Byte) : HostBlind (appendAdvance out) := by
  intro s a r
  unfold appendAdvance
  rw [besideHost_inRange, apply_ite (besideHost a r)]
  rfl

theorem hostBlind_execPPack : HostBlind execPPack := by
  intro s a r
  unfold execPPack
  rw [besideHost_inRange, besideHost_inRange]
  rfl

theorem hostBlind_execPMark : HostBlind execPMark := by
  intro s a r
  unfold execPMark
  rw [besideHost_inRange]
  rfl

theorem hostBlind_execPLen : HostBlind execPLen := by
  intro s a r
  unfold execPLen
  rw [besideHost_inRange]
  rfl

theorem hostBlind_execPCheck : HostBlind execPCheck := by
  intro s a r
  unfold execPCheck
  rw [apply_ite (besideHost a r)]
  rfl

theorem hostBlind_execCLoad : HostBlind execCLoad := by
  intro s a r
  unfold execCLoad
  rw [besideHost_inRange]
  rfl

theorem hostBlind_execCExpand : HostBlind execCExpand := by
  intro s a r
  unfold execCExpand
  rw [apply_dite (besideHost a r)]
  rfl

theorem hostBlind_execCRound : HostBlind execCRound := by
  intro s a r
  unfold execCRound
  rw [apply_dite (besideHost a r)]
  rfl

theorem hostBlind_execXNib : HostBlind execXNib := by
  intro s a r
  unfold execXNib
  rw [apply_dite (besideHost a r)]
  rfl

/-- In the phase `ph` the engine's turn is `op`, so it is as blind to the host as `op` is. -/
theorem engineTurn_withHost_of_blind {op : State → Result} {ph : Phase} {s : State} (hop : HostBlind op)
    (hturn : ∀ {u : State}, u.phase = ph → engineTurn u = op u) (hph : s.phase = ph) (a : List Turn)
    (r : Option Response) : engineTurn (s.withHost a r) = besideHost a r (engineTurn s) := by
  rw [hturn hph, hturn (u := s.withHost a r) hph, hop]

/-- The engine's turn does not see the turns listed or the value returned (R39, R186). -/
theorem hostBlind_engineTurn : HostBlind engineTurn := by
  intro s a r
  have waits (hw : s.phase = .idle ∨ s.phase = .done ∨ s.phase = .fault) :
      engineTurn (s.withHost a r) = besideHost a r (engineTurn s) := by
    rw [engineTurn_waiting hw, engineTurn_waiting (s := s.withHost a r) hw]
    rfl
  cases hph : s.phase with
  | idle => exact waits (.inl hph)
  | enc =>
    by_cases hi : s.i < s.n
    · rw [engineTurn_enc hph hi, engineTurn_enc (s := s.withHost a r) hph hi]
      exact hostBlind_appendAdvance _ s a r
    · rw [engineTurn_enc_of_not_lt hph hi, engineTurn_enc_of_not_lt (s := s.withHost a r) hph hi]
      rfl
  | size => exact engineTurn_withHost_of_blind (fun _ _ _ => rfl) engineTurn_size hph a r
  | pack => exact engineTurn_withHost_of_blind hostBlind_execPPack engineTurn_pack hph a r
  | mark => exact engineTurn_withHost_of_blind hostBlind_execPMark engineTurn_mark hph a r
  | len => exact engineTurn_withHost_of_blind hostBlind_execPLen engineTurn_len hph a r
  | check => exact engineTurn_withHost_of_blind hostBlind_execPCheck engineTurn_check hph a r
  | init => exact engineTurn_withHost_of_blind (fun _ _ _ => rfl) engineTurn_init hph a r
  | load => exact engineTurn_withHost_of_blind hostBlind_execCLoad engineTurn_load hph a r
  | expand => exact engineTurn_withHost_of_blind hostBlind_execCExpand engineTurn_expand hph a r
  | round => exact engineTurn_withHost_of_blind hostBlind_execCRound engineTurn_round hph a r
  | add => exact engineTurn_withHost_of_blind (fun _ _ _ => rfl) engineTurn_add hph a r
  | hex => exact engineTurn_withHost_of_blind hostBlind_execXNib engineTurn_hex hph a r
  | done => exact waits (.inr (.inl hph))
  | fault => exact waits (.inr (.inr hph))

theorem engineTurn_withHost {s t : State} (h : engineTurn s = .next t) (a : List Turn) (r : Option Response) :
    engineTurn (s.withHost a r) = .next (t.withHost a r) := by
  rw [hostBlind_engineTurn, h]
  rfl

/-- The engine's turn lists no turn. -/
theorem agenda_of_engineTurn {s t : State} (h : engineTurn s = .next t) : t.agenda = s.agenda := by
  have hside : engineTurn s = .next (t.withHost s.agenda s.response) := engineTurn_withHost h s.agenda s.response
  rw [Host.Outcome.next.inj (h.symm.trans hside)]
  rfl

/-! ### The polling loop -/

/-- `DIGEST` is over: no turn is left, and the host holds the Hex String of an engine in DONE. -/
structure State.digestReturned (s : State) (chars : Vector Byte 64) : Prop where
  noTurn : s.agenda = []
  phase : s.phase = .done
  response : s.response = some (.hex chars)

/-- The turn of `RDHEX` in DONE (R184). -/
theorem step_of_rdhex_turn {s : State} {rest : List Turn} (hagenda : s.agenda = .host (encode .rdhex) :: rest)
    (hdone : s.phase = .done) : step s = .next ((s.withAgenda rest).respond (.hex s.X)) := by
  rw [step_of_host_turn hagenda, hostTurn_of_decode (by rfl) (decodeEncodeAgree .rdhex rfl)]
  exact exec_rdhex_of_done (s := s.withAgenda rest) hdone

/-- In DONE the poll lists `RDHEX`, and that ends the loop (R185). -/
theorem run_reads_hex {s : State} (hagenda : s.agenda = [.poll]) (hdone : s.phase = .done) :
    ∃ k t, Host.Core.run core k s = .next t ∧ t.digestReturned s.X := by
  have hpoll : step s = .next (s.withHost [.host (encode .rdhex)] (some (.status s.statusByte))) :=
    (step_of_poll_turn hagenda).trans (pollTurn_of_done (s := s.withAgenda []) hdone)
  have hread : step (s.withHost [.host (encode .rdhex)] (some (.status s.statusByte))) =
      .next (s.withHost [] (some (.hex s.X))) := step_of_rdhex_turn rfl hdone
  exact ⟨2, _, run_succ_eq_next.mpr ⟨_, hpoll, run_succ_eq_next.mpr ⟨_, hread, rfl⟩⟩, rfl, hdone, rfl⟩

/-- While the engine runs, a poll and the engine turn it lists move the engine by one step and poll again (R185). -/
theorem run_polls_once {s s' : State} (hengine : engineTurn s = .next s') (hdone : s.phase ≠ .done)
    (hfault : s.phase ≠ .fault) (r : Option Response) {k : Nat} {t : State}
    (hrest : Host.Core.run core k (s'.withHost [.poll] (some (.status s.statusByte))) = .next t) :
    Host.Core.run core (k + 2) (s.withHost [.poll] r) = .next t := by
  have hpoll : step (s.withHost [.poll] r) = .next (s.withHost [.engine, .poll] (some (.status s.statusByte))) :=
    (step_of_poll_turn rfl).trans (pollTurn_of_running (s := s.withHost [] r) hdone hfault)
  have hturn : step (s.withHost [.engine, .poll] (some (.status s.statusByte))) =
      .next (s'.withHost [.poll] (some (.status s.statusByte))) :=
    (step_of_engine_turn rfl).trans (engineTurn_withHost hengine [.poll] _)
  exact run_succ_eq_next.mpr ⟨_, hpoll, run_succ_eq_next.mpr ⟨_, hturn, hrest⟩⟩

/-- Where the engine alone runs to DONE, the polling loop ends with its Hex String (R185). -/
theorem run_polls_to_done {k : Nat} {s t : State} (hnil : s.agenda = []) (hrun : runsCleanly k s t)
    (hdone : t.phase = .done) (r : Option Response) :
    ∃ m u, Host.Core.run core m (s.withHost [.poll] r) = .next u ∧ u.digestReturned t.X := by
  induction k generalizing s r with
  | zero =>
    obtain ⟨hend, -⟩ := hrun
    cases hend
    exact run_reads_hex (s := t.withHost [.poll] r) rfl hdone
  | succ k ih =>
    obtain ⟨hfault, s', hstep, hrest⟩ := runsCleanly_succ_iff.mp hrun
    have hturn : engineTurn s = .next s' := step_of_agenda_nil hnil ▸ hstep
    have hnil' : s'.agenda = [] := (agenda_of_engineTurn hturn).trans hnil
    by_cases hearly : s.phase = .done
    · cases hturn.symm.trans (engineTurn_waiting (.inr (.inl hearly)))
      exact ih hnil hrest r
    · obtain ⟨m, u, hpolls, hu⟩ := ih hnil' hrest (some (.status s.statusByte))
      exact ⟨m + 2, u, run_polls_once hturn hearly hfault r hpolls, hu⟩

/-- Settles O58: the expansion and `START` take two steps, the latched engine alone would run to DONE, and so the
polling loop ends with its Hex String. -/
theorem digestReturnsHexString : Obligations.DigestReturnsHexString := by
  intro s text hready hagenda hfits hlimit
  obtain ⟨t, hrun, ht⟩ := run_computes_digest (s := s.withAgenda []) rfl hlimit
  obtain ⟨m, u, hpolls, hu⟩ := run_polls_to_done (s := (s.withAgenda []).latch text) rfl hrun ht.phase s.response
  have hexpand : step s = .next (s.withAgenda [.host (encode (.start text)), .poll]) := by
    rw [step_of_host_turn hagenda, hostTurn_of_decode (by rfl) (decodeEncodeAgree (.digest text) rfl)]
    rfl
  have hstart : step (s.withAgenda [.host (encode (.start text)), .poll]) =
      .next (((s.withAgenda []).latch text).withHost [.poll] s.response) := by
    rw [step_of_host_turn (by rfl), hostTurn_of_decode (by rfl) (decode_encode_start text)]
    exact exec_start_of_ready (s := s.withAgenda [.poll]) hfits hready
  exact ⟨m + 2, u, run_succ_eq_next.mpr ⟨_, hexpand, run_succ_eq_next.mpr ⟨_, hstart, hpolls⟩⟩, hu.noTurn,
    hu.phase, ht.hex_eq ▸ hu.response⟩

end Sys2Proof.Machine
end

section
/-! PROOFS. The exit from FAULT (R205): in FAULT the engine waits, a poll only reads and no `START` is accepted, so
`RESET` alone changes the phase or the fault code. -/

namespace Sys2Proof.Machine

open Claims

theorem phase_eq_of_sameEngine {s t : State} (h : sameEngine s t) : t.phase = s.phase := by
  rw [h]

theorem fcode_eq_of_sameEngine {s t : State} (h : sameEngine s t) : t.fcode = s.fcode := by
  rw [h]

theorem sameEngine_of_engineTurn_fault {s t : State} (hfault : s.phase = .fault) (h : engineTurn s = .next t) :
    sameEngine s t := by
  cases h.symm.trans (engineTurn_waiting (.inr (.inr hfault)))
  rfl

/-- `START` is accepted in IDLE and DONE only (R182), so in FAULT the host can change the engine by `RESET` alone. -/
theorem hostTurn_fault_cases {p : Packet} {s t : State} (hfault : s.phase = .fault) (h : hostTurn p s = .next t) :
    sameEngine s t ∨ (decode p = .instr .reset ∧ t = s.afterReset) := by
  obtain hsame | hreset | ⟨-, -, hready, -⟩ := hostTurn_cases h
  · exact .inl hsame
  · exact .inr hreset
  · simp [State.ready_iff, hfault] at hready

/-- All that a step from FAULT can do: leave the engine as it was, or take the host's `RESET` (R205). -/
theorem step_fault_cases {s t : State} (hfault : s.phase = .fault) (h : step s = .next t) :
    sameEngine s t ∨
      ∃ p rest, s.agenda = .host p :: rest ∧ decode p = .instr .reset ∧ t = (s.withAgenda rest).afterReset := by
  match hagenda : s.agenda with
  | [] => exact .inl (sameEngine_of_engineTurn_fault hfault (step_of_agenda_nil hagenda ▸ h))
  | .engine :: rest =>
    rw [step_of_engine_turn hagenda] at h
    exact .inl (sameEngine_of_withAgenda (sameEngine_of_engineTurn_fault (s := s.withAgenda rest) hfault h))
  | .host p :: rest =>
    rw [step_of_host_turn hagenda] at h
    obtain hsame | ⟨hdec, ht⟩ := hostTurn_fault_cases (s := s.withAgenda rest) hfault h
    · exact .inl (sameEngine_of_withAgenda hsame)
    · exact .inr ⟨p, rest, rfl, hdec, ht⟩
  | .poll :: rest =>
    rw [step_of_poll_turn hagenda] at h
    exact .inl (sameEngine_of_withAgenda (sameEngine_of_pollTurn h))

/-- Settles O43: the engine left as it was is still in FAULT with its code, and after `RESET` it is in IDLE with none. -/
theorem onlyResetLeavesFault : Obligations.OnlyResetLeavesFault := by
  intro s t hfault hstep
  obtain hsame | ⟨p, rest, hagenda, hdec, rfl⟩ := step_fault_cases hfault hstep
  · exact .inl ⟨(phase_eq_of_sameEngine hsame).trans hfault, fcode_eq_of_sameEngine hsame⟩
  · exact .inr ⟨p, rest, hagenda, hdec, rfl, rfl⟩

end Sys2Proof.Machine
end

section
/-! PROOFS. The exact length of an invocation (R230, R231): one step before its end the engine still renders the last
character, and from DONE it would not have come back to HEX. -/

namespace Sys2Proof.Machine

open Claims

/-! ### Runs of the engine alone -/

/-- A run of `a + b` steps is at some state after `a` of them, and the other `b` run from there. -/
theorem exists_of_run_add {a b : Nat} {s t : State} (hrun : Host.Core.run core (a + b) s = .next t) :
    ∃ u, Host.Core.run core a s = .next u ∧ Host.Core.run core b u = .next t := by
  induction a generalizing s with
  | zero => exact ⟨s, rfl, Nat.zero_add b ▸ hrun⟩
  | succ a ih =>
    rw [Nat.add_right_comm] at hrun
    obtain ⟨s', hstep, hrest⟩ := run_succ_eq_next.mp hrun
    obtain ⟨u, hu, hend⟩ := ih hrest
    exact ⟨u, run_succ_eq_next.mpr ⟨s', hstep, hu⟩, hend⟩

/-- An engine with no turn listed keeps running alone. -/
theorem agenda_nil_of_run {k : Nat} {s t : State} (hnil : s.agenda = [])
    (hrun : Host.Core.run core k s = .next t) : t.agenda = [] :=
  run_keeps (P := fun r => r.agenda = [])
    (fun _ _ h hstep => (agenda_of_engineTurn (step_of_agenda_nil h ▸ hstep)).trans h) hnil hrun

/-- With no turn listed an engine in DONE waits there, unchanged (R186). -/
theorem eq_of_run_of_done {k : Nat} {s t : State} (hnil : s.agenda = []) (hdone : s.phase = .done)
    (hrun : Host.Core.run core k s = .next t) : t = s := by
  have hstay : step s = .next s := by
    rw [step_of_agenda_nil hnil, engineTurn_waiting (.inr (.inl hdone))]
  refine run_keeps (P := (· = s)) (fun r t hr hstep => ?_) rfl hrun
  subst hr
  exact Host.Outcome.next.inj (hstep.symm.trans hstay)

/-! ### The last step -/

/-- From the latched text of an admitted length, all steps but the last lead to the last character of phase HEX
(R172, R230). -/
theorem run_to_last_character {s : State} {text : List CodeUnit} (hagenda : s.agenda = [])
    (hlimit : (encodeUtf8 text).length ≤ Config.maxBytes) :
    ∃ k t, k + 1 = stepCount text ∧ runsCleanly k (s.latch text) t ∧ t.phase = .hex := by
  obtain ⟨q, hpack, hcheck, hq⟩ := run_packs_blocks hagenda hlimit
  obtain ⟨c, hcompress, hhex, hp, -, hc⟩ :=
    compressionComputesCompress q hcheck hq.noTurn (hq.blockCount ▸ blocksFor_pos _) hq.wordCount
  have hnil : c.agenda = [] := by rw [hc]; exact hq.noTurn
  have hphase (m : Nat) (hm : m ≤ 63) : (c.formatted m).phase = .hex := if_neg (by omega)
  have hformat : runsCleanly 63 (c.formatted 0) (c.formatted 63) :=
    runsCleanly_of_chain (fun m hm => by simp [hphase m hm]) fun m hm => step_formatted hnil (by omega)
  rw [State.formatted_zero hhex hp] at hformat
  refine ⟨_, _, ?_, runsCleanly_trans hpack (runsCleanly_trans hcompress hformat), hphase 63 le_rfl⟩
  rw [hq.blockCount, stepCount]
  omega

/-- Short of `stepCount` steps the engine is not in DONE: it would have stayed there, and is in HEX later on. -/
theorem run_not_done_of_lt_stepCount {s : State} {text : List CodeUnit} (hagenda : s.agenda = [])
    (hlimit : (encodeUtf8 text).length ≤ Config.maxBytes) {m : Nat} (hm : m < stepCount text) :
    ∃ u, Host.Core.run core m (s.latch text) = .next u ∧ u.phase ≠ .done := by
  obtain ⟨k, t, hk, ⟨hrun, -⟩, hhex⟩ := run_to_last_character hagenda hlimit
  obtain ⟨d, rfl⟩ := Nat.exists_eq_add_of_le (show m ≤ k by omega)
  obtain ⟨u, hu, hrest⟩ := exists_of_run_add hrun
  refine ⟨u, hu, fun hdone => ?_⟩
  cases eq_of_run_of_done (agenda_nil_of_run (s := s.latch text) hagenda hu) hdone hrest
  exact absurd (hdone.symm.trans hhex) (by decide)

/-- Settles O56: the accepted `START` is one step, after `stepCount` more the engine is in DONE, and after fewer it is
not. -/
theorem invocationTakesStepCount : Obligations.InvocationTakesStepCount := by
  intro s text hstart hlimit m hm
  have hlatch := step_of_aboutToStart hstart
  rw [Nat.add_comm 1 m]
  obtain hlt | rfl := hm.lt_or_eq
  · obtain ⟨u, hu, hne⟩ := run_not_done_of_lt_stepCount (s := s.withAgenda []) rfl hlimit hlt
    exact ⟨u, run_succ_eq_next.mpr ⟨_, hlatch, hu⟩, iff_of_false hne hlt.ne⟩
  · obtain ⟨t, ⟨hrun, -⟩, ht⟩ := run_computes_digest (s := s.withAgenda []) rfl hlimit
    exact ⟨t, run_succ_eq_next.mpr ⟨_, hlatch, hrun⟩, iff_of_true ht.phase rfl⟩

/-! ### The bound -/

/-- An admitted stream fills at most `2^23 + 1` blocks (R121, R231). -/
theorem blocksFor_le {nb : Nat} (h : nb ≤ Config.maxBytes) : blocksFor nb ≤ 2 ^ 23 + 1 := by
  rw [Config.maxBytes] at h
  rw [blocksFor]
  omega

/-- Settles O57: there are at most as many items as code units, and the limit bounds the bytes and the blocks. -/
theorem stepCountIsBounded : Obligations.StepCountIsBounded := by
  intro text hlimit
  obtain ⟨hitems, -⟩ := unitsGiveBytes text
  have hblocks := blocksFor_le hlimit
  rw [Config.maxBytes] at hlimit
  rw [stepCount]
  omega

end Sys2Proof.Machine
end

section
/-! PROOFS. What `RESET` leaves does not depend on the old data (log entry 3; R37, R220, U1, U13): each of the nineteen
pieces is overwritten, so the data of another engine could stand in their place. -/

namespace Sys2Proof.Machine

/-- The engine of `u` beside the model's own fields of `s`: the nineteen pieces of R20 are those of `u`. -/
def State.withEngineOf (s u : State) : State :=
  { u with agenda := s.agenda, response := s.response, reading := s.reading, draws := s.draws,
           maxUnits := s.maxUnits }

/-- States that agree on the model's own fields differ in the engine only. -/
theorem State.withEngineOf_eq {s u : State} (hagenda : s.agenda = u.agenda) (hresponse : s.response = u.response)
    (hreading : s.reading = u.reading) (hdraws : s.draws = u.draws) (hmaxUnits : s.maxUnits = u.maxUnits) :
    s.withEngineOf u = u := by
  rw [State.withEngineOf, hagenda, hresponse, hreading, hdraws, hmaxUnits]

/-- `RESET` overwrites the whole engine, so it may as well start from another one (R220). -/
theorem State.afterReset_withEngineOf (s u : State) : (s.withEngineOf u).afterReset = s.afterReset := rfl

theorem exec_reset (s : State) : exec .reset s = .next s.afterReset := rfl

/-- Settles O10: `s` with the engine of `u` is `u`, and `RESET` does not see that the engine was exchanged. -/
theorem resetForgetsData : Obligations.ResetForgetsData := by
  intro s u hagenda hresponse hreading hdraws hmaxUnits
  have hexchange : s.withEngineOf u = u := State.withEngineOf_eq hagenda hresponse hreading hdraws hmaxUnits
  rw [exec_reset, exec_reset, ← State.afterReset_withEngineOf s u, hexchange]

end Sys2Proof.Machine
end
